-- ==== Sys2Proof/Word.lean ====
section
/-! DEFINITION. The values the block's registers and ports hold, at the default widths of 00_scope.md R4
(TW = 32, DW = 16, CW = 32, FW = 7; log entry 9). Their plainest readings only: everything computed from them
stands under Machine/. -/

namespace Sys2Proof

/-- The level of the monitored input (10_state.md R10). Its bit, Low = 0 and High = 1, is in Decode.lean. -/
inductive Level where
  | low
  | high
deriving DecidableEq, Repr

/-- A `TW`-bit unsigned count of microseconds: `now` and `time_last_edge` (10_state.md R12, decision D5). -/
abbrev Time := BitVec 32

/-- One buffer entry: `DW` bits, two's complement (10_state.md R16, decision D7). -/
abbrev Entry := BitVec 16

/-- The `result` port: `CW` bits, unsigned (30_encoding.md R46, decision D8). -/
abbrev Code := BitVec 32

/-- The `fill_index` counter: `FW` bits, unsigned (10_state.md R15, decision D9). -/
abbrev FillIndex := BitVec 7

/-- The command code on the `op` port (30_encoding.md R44). -/
abbrev OpCode := BitVec 3

/-- The 36-bit written form of one beat, `op ‖ pin_level ‖ now` (30_encoding.md R47). -/
abbrev BeatWord := BitVec 36

end Sys2Proof
end

