-- ==== Sys2Proof/Config.lean ====
section
/-! DEFINITION. The build-time constants of 00_scope.md R4 and the one value the spec leaves free. The constants are
the same at every beat and no command reads or writes them as data (10_state.md R18). -/

namespace Sys2Proof

/-- The parameters of 00_scope.md R4 with their default values. `ratioNum` / `ratioDen` is the factor 1.5 of the decode
comparator. The arithmetic of Machine/Operands.lean and Machine/Flags.lean takes any such record; State holds its
registers at the default widths (log entry 9). -/
structure Config where
  /-- `CAPACITY`: entries of `buffer`. -/
  capacity : Nat := 66
  /-- `DURATION_MIN`: at most this many microseconds is noise. -/
  durationMin : Nat := 400
  /-- `DURATION_MAX`: at least this many microseconds is a gap. -/
  durationMax : Nat := 10000
  /-- `DECODE_START`: first index the decoder visits. -/
  decodeStart : Nat := 3
  /-- `DECODE_STRIDE`: index step of the decoder. -/
  decodeStride : Nat := 2
  /-- `RATIO_NUM`. -/
  ratioNum : Nat := 3
  /-- `RATIO_DEN`. -/
  ratioDen : Nat := 2
  /-- `TW`: width of `now` and `time_last_edge`. -/
  tw : Nat := 32
  /-- `DW`: width of one buffer entry. -/
  dw : Nat := 16
  /-- `CW`: width of the decode result. -/
  cw : Nat := 32
  /-- `FW`: width of `fill_index`. -/
  fw : Nat := 7
deriving DecidableEq, Repr

/-- The configuration of the hardware: every parameter at the value of 00_scope.md R4. -/
abbrev cfg : Config := {}

/-- FREE VALUE (log entry 4): the pattern an entry holds that nothing has written since hardware reset number
`resetCount` (10_state.md R27: "unspecified (any `DW`-bit pattern)"). It has no body: no proof can know a value of it. -/
opaque Config.powerOnEntry : (resetCount index : Nat) → BitVec 16

end Sys2Proof
end

