-- ==== Sys2Proof/Syntax.lean ====
section
/-! DEFINITION. The command of one beat, with the port samples it uses as its operands (30_encoding.md R44, R45), and
the input ports of one clock cycle (R42). The written stimulus lines of R50 and R51 are in Machine/Stimulus.lean. -/

namespace Sys2Proof

/-- One command, one constructor per row of spec/opcode_table.json. No command carries an immediate: the operands are
the sampled ports, and a port a command does not use is ignored entirely (30_encoding.md R45). -/
inductive Instr where
  /-- `op = 000`, 43_rearm.md R86. -/
  | nop
  /-- `op = 001`, 40_initialize.md R54. -/
  | init (pin : Level)
  /-- `op = 010`, 41_poll.md R73. -/
  | poll (pin : Level) (now : Time)
  /-- `op = 011`, 42_query.md R74. -/
  | isReady
  /-- `op = 100`, 42_query.md R82. -/
  | decode
  /-- `op = 101`, 43_rearm.md R84. -/
  | reset
  /-- `op = 110`, reserved, 30_encoding.md R48. -/
  | reserved110
  /-- `op = 111`, reserved, 30_encoding.md R48. -/
  | reserved111
deriving DecidableEq, Repr

/-- The samples of the input ports in one `clk` cycle (30_encoding.md R42). The cycle is a beat when `rst` is 0 (R43). -/
structure Cycle where
  rst : Bool
  op : OpCode
  pinLevel : Level
  now : Time
deriving DecidableEq, Repr

end Sys2Proof
end

