-- ==== Sys2Proof/WellFormed.lean ====
section
/-! DEFINITION. The checks on what is presented to the model: that a command has an assigned code, and that a
configuration is legal. The operands of `Instr` have the widths of their ports, so a command has no further form to
check: every 3-bit code selects one row, in every state (30_encoding.md R49). The checks on a beat word (canonical
form, R47) and on a stimulus line (R50) stand beside their types, in Decode.lean and Machine/Stimulus.lean. -/

namespace Sys2Proof

/-- The command has one of the six assigned codes of 30_encoding.md R44. A reserved code executes as NOP, but
"Software must not rely on this" (R48). -/
def Instr.assigned : Instr → Bool
  | .nop | .init _ | .poll _ _ | .isReady | .decode | .reset => true
  | .reserved110 | .reserved111 => false

/-- 00_scope.md R5, first clause: `0 <= DURATION_MIN < DURATION_MAX < 2^TW`. -/
abbrev Config.thresholdsLegal (c : Config) : Prop := c.durationMin < c.durationMax ∧ c.durationMax < 2 ^ c.tw

/-- 00_scope.md R5: `CAPACITY >= DECODE_START + 1` and `DECODE_START >= 1`. -/
abbrev Config.decodeRangeLegal (c : Config) : Prop := c.decodeStart + 1 ≤ c.capacity ∧ 1 ≤ c.decodeStart

/-- 00_scope.md R5: `CAPACITY < 2^FW`, `DW >= 2`, `CW >= 1`. -/
abbrev Config.widthsLegal (c : Config) : Prop := c.capacity < 2 ^ c.fw ∧ 2 ≤ c.dw ∧ 1 ≤ c.cw

/-- DEDUCED (log entry 16): the decoder's loop advances and "always terminates" (42_query.md R82) only with a stride of
at least 1; 00_scope.md R5 does not list it. -/
abbrev Config.strideLegal (c : Config) : Prop := 1 ≤ c.decodeStride

/-- The constraints of 00_scope.md R5, with the stride's (log entry 16). -/
abbrev Config.legal (c : Config) : Prop :=
  c.thresholdsLegal ∧ c.decodeRangeLegal ∧ c.widthsLegal ∧ c.strideLegal

end Sys2Proof
end

