-- ==== Sys2Proof/Decode.lean ====
section
/-! DEFINITION. From port samples and beat words to commands, and back (30_encoding.md R44 to R52). Decoding is total and
context-free: every 3-bit code selects exactly one row (R49). Only a number that is no 36-bit beat word is refused, by
name (log entry 11). -/

namespace Sys2Proof

/-- Low = 0, High = 1 (10_state.md R10). -/
def Level.toBit : Level → BitVec 1
  | .low => 0#1
  | .high => 1#1

/-- Low = 0, High = 1 (10_state.md R10). -/
def Level.ofBit (b : BitVec 1) : Level := if b = 1#1 then .high else .low

/-- `op` stands in bits 35:33 of the beat word (30_encoding.md R47). -/
def wordOp (w : BeatWord) : OpCode := w.extractLsb' 33 3

/-- `pin_level` stands in bit 32 of the beat word (30_encoding.md R47). -/
def wordPin (w : BeatWord) : Level := Level.ofBit (w.extractLsb' 32 1)

/-- `now` stands in bits 31:0 of the beat word (30_encoding.md R47). -/
def wordNow (w : BeatWord) : Time := w.extractLsb' 0 32

/-- The command of a beat, from the three ports (30_encoding.md R44, R45). -/
def decodeBeat (op : OpCode) (pin : Level) (now : Time) : Instr :=
  if op = 0b000#3 then .nop
  else if op = 0b001#3 then .init pin
  else if op = 0b010#3 then .poll pin now
  else if op = 0b011#3 then .isReady
  else if op = 0b100#3 then .decode
  else if op = 0b101#3 then .reset
  else if op = 0b110#3 then .reserved110
  else .reserved111

/-- The command a beat word writes down (30_encoding.md R47). -/
def decodeWord (w : BeatWord) : Instr := decodeBeat (wordOp w) (wordPin w) (wordNow w)

/-- Why a number is refused as a beat. Raised by `decode` only; safe: no beat of the hardware is refused. -/
inductive DecodeError where
  /-- The number has a bit above bit 35, so it is not a 36-bit beat word (30_encoding.md R47). -/
  | notABeatWord (w : Nat)
deriving DecidableEq, Repr

/-- Decoding of any number as a beat word; total, refusing by name. -/
def decode (w : Nat) : Except DecodeError Instr :=
  if w < 2 ^ 36 then .ok (decodeWord (BitVec.ofNat 36 w)) else .error (.notABeatWord w)

/-- The decoder at a word of spec/opcode_table.json: its beat words are one number with bit 0 the least significant bit
(30_encoding.md R47), and the bits from `nbits` up are 0. -/
def decodeTableWord (nbits w : Nat) : Option Instr :=
  match decode (w % 2 ^ nbits) with
  | .ok i => some i
  | .error _ => none

/-- The code of a command (30_encoding.md R44). -/
def Instr.opBits : Instr → OpCode
  | .nop => 0b000#3
  | .init _ => 0b001#3
  | .poll _ _ => 0b010#3
  | .isReady => 0b011#3
  | .decode => 0b100#3
  | .reset => 0b101#3
  | .reserved110 => 0b110#3
  | .reserved111 => 0b111#3

/-- The `pin_level` field of the canonical beat word: 0 where the command does not use the port (30_encoding.md R47). -/
def Instr.pinBit : Instr → BitVec 1
  | .init pin => pin.toBit
  | .poll pin _ => pin.toBit
  | .nop | .isReady | .decode | .reset | .reserved110 | .reserved111 => 0#1

/-- The `now` field of the canonical beat word: 0 where the command does not use the port (30_encoding.md R47). -/
def Instr.nowBits : Instr → Time
  | .poll _ now => now
  | .nop | .init _ | .isReady | .decode | .reset | .reserved110 | .reserved111 => 0#32

/-- The canonical beat word of a command, `op ‖ pin_level ‖ now` (30_encoding.md R47). -/
def encode (i : Instr) : BeatWord := i.opBits ++ i.pinBit ++ i.nowBits

/-- The bits of a beat word that the command of code `op` uses: `op` always, bit 32 for INIT and POLL, bits 31:0 for
POLL (30_encoding.md R45, R47). -/
def usedMask (op : OpCode) : BeatWord :=
  if op = 0b001#3 then 0xF00000000#36
  else if op = 0b010#3 then 0xFFFFFFFFF#36
  else 0xE00000000#36

/-- "Fields a command does not use are written as 0 in the canonical form" (30_encoding.md R47). -/
abbrev canonicalWord (w : BeatWord) : Prop := w &&& usedMask (wordOp w) = w

/-- One row of spec/opcode_table.json: the words `w` with `w &&& mask = pattern` are the row's. -/
structure TableRow where
  mnemonic : String
  pattern : BeatWord
  mask : BeatWord
deriving DecidableEq, Repr

/-- spec/opcode_table.json: eight rows, six assigned codes and two reserved (30_encoding.md R52). -/
def opcodeTable : List TableRow :=
  [⟨"NOP", 0x000000000#36, 0xE00000000#36⟩,
   ⟨"INIT", 0x200000000#36, 0xE00000000#36⟩,
   ⟨"POLL", 0x400000000#36, 0xE00000000#36⟩,
   ⟨"IS_READY", 0x600000000#36, 0xE00000000#36⟩,
   ⟨"DECODE", 0x800000000#36, 0xE00000000#36⟩,
   ⟨"RESET", 0xA00000000#36, 0xE00000000#36⟩,
   ⟨"RESERVED_110", 0xC00000000#36, 0xE00000000#36⟩,
   ⟨"RESERVED_111", 0xE00000000#36, 0xE00000000#36⟩]

/-- The mnemonic of a command's row. -/
def Instr.mnemonic : Instr → String
  | .nop => "NOP"
  | .init _ => "INIT"
  | .poll _ _ => "POLL"
  | .isReady => "IS_READY"
  | .decode => "DECODE"
  | .reset => "RESET"
  | .reserved110 => "RESERVED_110"
  | .reserved111 => "RESERVED_111"

/-- The clock cycle in which the host presents a beat word's three fields on their ports (30_encoding.md R47). -/
def Cycle.ofWord (w : BeatWord) : Cycle := ⟨false, wordOp w, wordPin w, wordNow w⟩

end Sys2Proof
end

