-- ==== Sys2Proof/Machine/Flags.lean ====
section
/-! DEFINITION. The decision on which the flags and the phase rest: the threshold comparator and classifier of POLL
(41_poll.md R63 to R68). The flags themselves, `idle` and `ready`, are written by the operations of Ops.lean that the
comparator selects; no arithmetic flags exist (10_state.md, section 3). -/

namespace Sys2Proof.Machine

/-- The four classes of a detected edge (41_poll.md R68). -/
inductive EdgeClass where
  /-- `dt >= DURATION_MAX` and `idle = 0`: the capture in progress is abandoned (41_poll.md R63). -/
  | gap
  /-- `DURATION_MIN < dt < DURATION_MAX`: one entry is appended (41_poll.md R64). -/
  | validPulse
  /-- `dt <= DURATION_MIN`: ignored (41_poll.md R66). -/
  | noise
  /-- `dt >= DURATION_MAX` and `idle = 1`: ignored (41_poll.md R67). -/
  | idleGap
deriving DecidableEq, Repr

/-- The classifier, in the order of the tests of 41_poll.md R73; the comparisons are on the unsaturated `dt` (R68). -/
def classify (c : Config) (dt : Nat) (idle : Bool) : EdgeClass :=
  if c.durationMax ≤ dt ∧ idle = false then .gap
  else if c.durationMin < dt ∧ dt < c.durationMax then .validPulse
  else if dt ≤ c.durationMin then .noise
  else .idleGap

end Sys2Proof.Machine
end

