-- ==== Sys2Proof/Machine/Operands.lean ====
section
/-! DEFINITION. The operands of POLL and DECODE and the arithmetic on them (41_poll.md R60 to R62 and R72, 42_query.md R76
to R81), computed exactly on integers for any configuration and narrowed where a register or a port takes the value. -/

namespace Sys2Proof.Machine

/-- `dt = (now - time_last_edge) mod 2^TW`, unsigned and never negative (41_poll.md R60; log entry 7). Both operands
are `TW`-bit values. -/
def elapsed (c : Config) (now timeLastEdge : Nat) : Nat := (2 ^ c.tw - timeLastEdge + now) % 2 ^ c.tw

/-- `DMAX_MAG = 2^(DW-1) - 1`, the largest magnitude a buffer entry can hold (00_scope.md R4). -/
def dmaxMag (c : Config) : Nat := 2 ^ (c.dw - 1) - 1

/-- `sat(dt) = min(dt, DMAX_MAG)` (41_poll.md R61). -/
def saturate (c : Config) (dt : Nat) : Nat := min dt (dmaxMag c)

/-- The value of the entry appended for a valid pulse: `+sat(dt)` when the level sampled in this beat is High, `-sat(dt)`
when it is Low (41_poll.md R62; 90_conflicts.md C2). -/
def entryValue (c : Config) (levelCurrent : Level) (dt : Nat) : Int :=
  match levelCurrent with
  | .high => (saturate c dt : Int)
  | .low => -(saturate c dt : Int)

/-- The entry as stored: two's complement (41_poll.md R62). The narrowing is exact (R72). -/
def storedEntry (c : Config) (levelCurrent : Level) (dt : Nat) : Entry := BitVec.ofInt 16 (entryValue c levelCurrent dt)

/-- `abs` of a buffer entry, an unsigned integer (00_scope.md section 6; log entry 17). -/
def magnitude (e : Entry) : Nat := e.toInt.natAbs

/-- `NBITS`, the number of indices the decoder visits (42_query.md R78; 90_conflicts.md C1). -/
def nbits (c : Config) : Nat := (c.capacity - 1 - c.decodeStart) / c.decodeStride + 1

/-- The indices the decoder visits, in order: `DECODE_START`, `DECODE_START + DECODE_STRIDE`, ..., the last one at most
`CAPACITY - 1` (42_query.md R76). -/
def decodeIndices (c : Config) : List Nat := (List.range (nbits c)).map fun k => c.decodeStart + k * c.decodeStride

/-- The comparator on one pair: `RATIO_DEN * cur > RATIO_NUM * ref`, strict and exact (42_query.md R77, R81). -/
def pairBit (c : Config) (ref cur : Nat) : Bool := decide (c.ratioNum * ref < c.ratioDen * cur)

/-- One step of the accumulator: `acc <- ((acc << 1) mod 2^CW) | bit` (42_query.md R79). -/
def shiftIn (c : Config) (acc : Nat) (bit : Bool) : Nat := ((acc <<< 1) % 2 ^ c.cw) ||| bit.toNat

/-- The walk of DECODE over the buffer's magnitudes, from `acc = 0` (42_query.md R82). -/
def decodeWalk (c : Config) (mag : Nat → Nat) : Nat :=
  (decodeIndices c).foldl (fun acc i => shiftIn c acc (pairBit c (mag (i - 1)) (mag i))) 0

end Sys2Proof.Machine
end

