-- ==== Sys2Proof/Machine/State.lean ====
section
/-! DEFINITION. The state of one PulseCapture instance (10_state.md R9), with the ports the host drives and sees, as plain
data; the reasons a step can stop; the state after hardware reset. INVENTORY.md lists the fields with their rules. -/

namespace Sys2Proof.Machine

/-- The duration buffer (20_memory.md R29, R30): the entries written since hardware reset, as pairs (index, entry) with
strictly rising indices. The unit is one whole entry, not a byte (R36; log entry 5). An index that is not listed reads
as the free value `Config.powerOnEntry` (log entry 4). -/
abbrev Memory := List (Nat × Entry)

/-- The state. The first seven fields are "the complete architectural state of one PulseCapture instance" (10_state.md
R9); the last three are the output port and the model's own form of the host and of the unspecified reset contents. -/
structure State where
  /-- `level_current`, R10. -/
  levelCurrent : Level
  /-- `level_previous`, R11. -/
  levelPrevious : Level
  /-- `time_last_edge`, R12. -/
  timeLastEdge : Time
  /-- `idle`, R13. -/
  idle : Bool
  /-- `fill_index`, R15. -/
  fillIndex : FillIndex
  /-- `ready`, R14. -/
  ready : Bool
  /-- `buffer`, R16. -/
  buffer : Memory
  /-- What the `result` port carried in the most recent clock cycle (30_encoding.md R46; log entry 3). Nothing reads it. -/
  result : Code
  /-- MODEL's own: the clock cycles the host is going to present, the next one first (log entry 1). -/
  inputs : List Cycle
  /-- MODEL's own: how many `rst` cycles there have been; it numbers the unspecified reset contents (log entry 4). -/
  resetCount : Nat
deriving DecidableEq, Repr

/-- The faults of the block: none. "The block raises no synchronous exception ... the set of exceptions is empty"
(60_exceptions.md R87), and an access out of the buffer cannot be produced (20_memory.md R37). -/
inductive Fault where
deriving DecidableEq, Repr

/-- The refusals of the model. -/
inductive Refusal where
  /-- Raised by an arm of `exec` whose command has no meaning yet; no arm raises it in this model. Safe: nothing is claimed
  about such a command. -/
  | notModelled (mnemonic : String)
deriving DecidableEq, Repr

/-- The state right after hardware reset (10_state.md R27, 70_reset_and_hazards.md R97): `idle = 1`, `fill_index = 0`,
`ready = 0`; both levels Low and `time_last_edge = 0` (the spec's decision D10, log entry 8); no buffer entry written;
`result = 0`. The host has presented nothing yet (log entry 1). -/
def State.reset : State where
  levelCurrent := .low
  levelPrevious := .low
  timeLastEdge := 0#32
  idle := true
  fillIndex := 0#7
  ready := false
  buffer := []
  result := 0#32
  inputs := []
  resetCount := 0

end Sys2Proof.Machine
end

