-- ==== Sys2Proof/Machine/Ops.lean ====
section
/-! DEFINITION. The named operations over the buffer, the registers and the ports. There is no operation that takes an
exception and none that returns from one: the block has neither (60_exceptions.md R87, R91, R92). -/

namespace Sys2Proof.Machine

/-! ## The buffer -/

/-- The entry written at `index` since hardware reset, if any. -/
def Memory.read : Memory → (index : Nat) → Option Entry
  | [], _ => none
  | (j, u) :: m, i => if i = j then some u else Memory.read m i

/-- Write of one whole entry (20_memory.md R30, R38); keeps the indices strictly rising. -/
def Memory.write : Memory → (index : Nat) → Entry → Memory
  | [], i, v => [(i, v)]
  | (j, u) :: m, i, v =>
    if i < j then (i, v) :: (j, u) :: m
    else if i = j then (i, v) :: m
    else (j, u) :: Memory.write m i v

/-- The canonical form: strictly rising indices, all of them indices of the buffer (20_memory.md R29). An unlisted index
reads as a free value, so no listed entry is known to equal it and none is left out (log entry 5). -/
def Memory.wf (m : Memory) : Bool := decide (m.Pairwise fun p q => p.1 < q.1) && m.all fun p => decide (p.1 < cfg.capacity)

/-- `buffer[i]`, `BufRead(i)` (00_scope.md section 6). An entry that nothing has written since hardware reset is
unspecified (10_state.md R27): a free value (log entry 4). -/
def State.entryAt (s : State) (i : Nat) : Entry := (Memory.read s.buffer i).getD (Config.powerOnEntry s.resetCount i)

/-- `buffer[i] <- v`, `BufWrite(i, v)` (00_scope.md section 6). -/
def State.writeEntry (s : State) (i : Nat) (v : Entry) : State := { s with buffer := Memory.write s.buffer i v }

/-! ## The ports -/

/-- The output port `ready_o`: "equals the `ready` register at all times" (30_encoding.md R42). -/
def State.readyO (s : State) : Bool := s.ready

/-- Drives the `result` port for this cycle (30_encoding.md R46). -/
def State.drive (s : State) (result : Code) : State := { s with result := result }

/-- The cycle in which the host calls nothing: the command port presents NOP (43_rearm.md R86; log entry 2). -/
def undrivenCycle : Cycle := ⟨false, 0b000#3, .low, 0#32⟩

/-- The input ports in the next clock cycle (30_encoding.md R42; log entries 1 and 2). -/
def State.currentCycle (s : State) : Cycle := s.inputs.headD undrivenCycle

/-- The state in which that cycle's samples have been taken, once (30_encoding.md R43). -/
def State.takeCycle (s : State) : State := { s with inputs := s.inputs.tail }

/-! ## Hardware reset -/

/-- A cycle with `rst = 1`: the state is forced to the reset values, the buffer becomes unspecified again, `result = 0`
(70_reset_and_hazards.md R97, 30_encoding.md R53). What the host is going to present is the host's own (log entry 10). -/
def hardwareReset (s : State) : State := { State.reset with inputs := s.inputs, resetCount := s.resetCount + 1 }

/-! ## The steps of POLL -/

/-- `level_current <- pin_level` (41_poll.md R58). -/
def State.sample (s : State) (pin : Level) : State := { s with levelCurrent := pin }

/-- `level_previous <- level_current` (41_poll.md R71). -/
def State.passLevel (s : State) : State := { s with levelPrevious := s.levelCurrent }

/-- `time_last_edge <- now` (41_poll.md R69). -/
def State.setTimeOrigin (s : State) (now : Time) : State := { s with timeLastEdge := now }

/-- `idle <- v`. -/
def State.setIdle (s : State) (v : Bool) : State := { s with idle := v }

/-- `fill_index <- v`. -/
def State.setFillIndex (s : State) (v : FillIndex) : State := { s with fillIndex := v }

/-- `ready <- v`. -/
def State.setReady (s : State) (v : Bool) : State := { s with ready := v }

/-- The append of a valid pulse of `dt` microseconds: the entry at index `fill_index`, then the increment; both skipped
without a signal when `fill_index >= CAPACITY` (41_poll.md R64, R65; 20_memory.md R31, R32). -/
def State.appendPulse (c : Config) (s : State) (dt : Nat) : State :=
  if s.fillIndex.toNat < c.capacity then
    (s.writeEntry s.fillIndex.toNat (storedEntry c s.levelCurrent dt)).setFillIndex (s.fillIndex + 1#7)
  else s

/-- What each class of edge does to `idle`, `fill_index` and the buffer (41_poll.md R63, R64, R66, R67). -/
def State.applyClass (c : Config) (s : State) (dt : Nat) : EdgeClass → State
  | .gap => (s.setIdle true).setFillIndex 0#7
  | .validPulse => (s.setIdle false).appendPulse c dt
  | .noise => s
  | .idleGap => s

/-- The ready latch: "an equality test, not `>=`" (41_poll.md R70, R72). -/
def State.latchReady (c : Config) (s : State) : State :=
  if s.fillIndex.toNat = c.capacity then s.setReady true else s

/-! ## DECODE -/

/-- The magnitude the decoder reads at an index (42_query.md R77). -/
def State.magnitudeAt (s : State) (i : Nat) : Nat := magnitude (s.entryAt i)

/-- The value DECODE returns: the sentinel 0 when not ready (42_query.md R75), else the walk's (R82). -/
def State.decoded (c : Config) (s : State) : Nat := if s.ready then decodeWalk c s.magnitudeAt else 0

end Sys2Proof.Machine
end

