-- ==== Sys2Proof/Machine/Initialize.lean ====
section
/-! DEFINITION. INIT (40_initialize.md). -/

namespace Sys2Proof.Machine

/-- INIT "records the initial level into both `level_current` and `level_previous`" and writes nothing else; result 0
(40_initialize.md R54). Accepted in any phase, any number of times (R55). -/
def execInit (pin : Level) (s : State) : Host.Outcome State Fault Refusal :=
  .next ((s.sample pin).passLevel.drive 0#32)

end Sys2Proof.Machine
end

