-- ==== Sys2Proof/Machine/Poll.lean ====
section
/-! DEFINITION. POLL (41_poll.md R56 to R73), step by step. Each step takes the configuration; the machine runs at `cfg`. -/

namespace Sys2Proof.Machine

/-- Steps 4 to 6, on a detected edge, in the order of 41_poll.md R73: the class's effect, the time origin, `level_previous`,
the ready latch (R60 to R71). `level_current` already holds the sample of this beat; `dt` and the class use the old
`time_last_edge` and `idle`. -/
def pollEdge (c : Config) (now : Time) (s : State) : State :=
  let dt := elapsed c now.toNat s.timeLastEdge.toNat
  State.latchReady c (((s.applyClass c dt (classify c dt s.idle)).setTimeOrigin now).passLevel)

/-- Steps 2 and 3, when not ready: the sample, and the edge detector, which compares the new `level_current` with
`level_previous` (41_poll.md R58, R59). -/
def pollSample (c : Config) (pin : Level) (now : Time) (s : State) : State :=
  if (s.sample pin).levelCurrent = s.levelPrevious then (s.sample pin).passLevel else pollEdge c now (s.sample pin)

/-- Step 1, the ready gate: "If `ready` is true, return immediately" (41_poll.md R57). -/
def pollNext (c : Config) (pin : Level) (now : Time) (s : State) : State :=
  if s.ready then s else pollSample c pin now s

/-- POLL (41_poll.md R73); result 0 always (R56). It raises no exception in any case. -/
def execPoll (pin : Level) (now : Time) (s : State) : Host.Outcome State Fault Refusal :=
  .next (State.drive (pollNext cfg pin now s) 0#32)

end Sys2Proof.Machine
end

