-- ==== Sys2Proof/Machine/Query.lean ====
section
/-! DEFINITION. IS_READY and DECODE (42_query.md): the two queries, which change no state. -/

namespace Sys2Proof.Machine

/-- IS_READY: `result <- zext_CW(ready)` (42_query.md R74). -/
def execIsReady (s : State) : Host.Outcome State Fault Refusal :=
  .next (s.drive ((BitVec.ofBool s.ready).setWidth 32))

/-- DECODE: `result` is the decoded integer, or the sentinel 0 when not ready (42_query.md R75, R82). -/
def execDecode (s : State) : Host.Outcome State Fault Refusal :=
  .next (s.drive (BitVec.ofNat 32 (s.decoded cfg)))

end Sys2Proof.Machine
end

