-- ==== Sys2Proof/Machine/Rearm.lean ====
section
/-! DEFINITION. RESET, NOP (43_rearm.md) and the two reserved codes (30_encoding.md R48). -/

namespace Sys2Proof.Machine

/-- RESET: `ready <- 0`, `fill_index <- 0`, `idle <- 1`, result 0; the levels, the time origin and every buffer entry stay
as they were (43_rearm.md R84, 10_state.md R28). -/
def execReset (s : State) : Host.Outcome State Fault Refusal :=
  .next ((((s.setReady false).setFillIndex 0#7).setIdle true).drive 0#32)

/-- NOP "changes no state and returns `result = 0`" (43_rearm.md R86). -/
def execNop (s : State) : Host.Outcome State Fault Refusal := .next (s.drive 0#32)

/-- The reserved code 110 "behaves exactly as NOP: no state changes and `result = 0`" (30_encoding.md R48; log entry 6). -/
def execReserved110 (s : State) : Host.Outcome State Fault Refusal := .next (s.drive 0#32)

/-- The reserved code 111 "behaves exactly as NOP: no state changes and `result = 0`" (30_encoding.md R48; log entry 6). -/
def execReserved111 (s : State) : Host.Outcome State Fault Refusal := .next (s.drive 0#32)

end Sys2Proof.Machine
end

