-- ==== Sys2Proof/Machine/Dispatch.lean ====
section
/-! DEFINITION. One arm per command: one direct call of its meaning. -/

namespace Sys2Proof.Machine

def exec (i : Instr) (s : State) : Host.Outcome State Fault Refusal :=
  match i with
  | .nop => Sys2Proof.Machine.execNop s
  | .init pin => Sys2Proof.Machine.execInit pin s
  | .poll pin now => Sys2Proof.Machine.execPoll pin now s
  | .isReady => Sys2Proof.Machine.execIsReady s
  | .decode => Sys2Proof.Machine.execDecode s
  | .reset => Sys2Proof.Machine.execReset s
  | .reserved110 => Sys2Proof.Machine.execReserved110 s
  | .reserved111 => Sys2Proof.Machine.execReserved111 s

end Sys2Proof.Machine
end

