-- ==== Sys2Proof/Machine/Step.lean ====
section
/-! DEFINITION. One clock cycle of the block (30_encoding.md R42, R43). -/

namespace Sys2Proof.Machine

/-- One `clk` cycle: the ports are sampled once; with `rst = 1` the state is forced to the reset values and the command is
lost (30_encoding.md R53); otherwise the cycle is a beat and exactly the operation chosen by `op` takes place (R43). -/
def step (s : State) : Host.Outcome State Fault Refusal :=
  if s.currentCycle.rst then .next (hardwareReset s.takeCycle)
  else exec (decodeBeat s.currentCycle.op s.currentCycle.pinLevel s.currentCycle.now) s.takeCycle

/-- The state in which the host presents the beat word `w` in the very next cycle, before everything it was going to
present (log entry 11). -/
def State.withFetchWord (s : State) (nbits w : Nat) : State :=
  { s with inputs := Cycle.ofWord (BitVec.ofNat 36 (w % 2 ^ nbits)) :: s.inputs }

end Sys2Proof.Machine
end

