-- ==== Sys2Proof/Machine/Stimulus.lean ====
section
/-! DEFINITION. The written form of stimuli (30_encoding.md R47, R50, R51): lines, the two pseudo-commands, the beat words
they stand for, and the reading of a line from its characters. A notation of the spec, not hardware (log entry 12). -/

namespace Sys2Proof.Machine

/-- "Mnemonics are the upper-case names of rule R44" (30_encoding.md R50). -/
inductive Mnemonic where
  | nop
  | init
  | poll
  | isReady
  | decode
  | reset
deriving DecidableEq, Repr

/-- One line of a stimulus program: a beat (30_encoding.md R50) or a pseudo-command (R51). -/
inductive Line where
  /-- `MNEMONIC [pin=<H|L>] [now=<n>]`. -/
  | beat (mnemonic : Mnemonic) (pin : Option Level) (now : Option Nat)
  /-- `DRAIN`. -/
  | drain
  /-- `IDLE n`. -/
  | idle (n : Nat)
deriving DecidableEq, Repr

/-- The code of a mnemonic (30_encoding.md R44). -/
def Mnemonic.opCode : Mnemonic → OpCode
  | .nop => 0b000#3
  | .init => 0b001#3
  | .poll => 0b010#3
  | .isReady => 0b011#3
  | .decode => 0b100#3
  | .reset => 0b101#3

/-- "`pin=` is given for INIT and POLL" (30_encoding.md R50). -/
def Mnemonic.takesPin : Mnemonic → Bool
  | .init | .poll => true
  | .nop | .isReady | .decode | .reset => false

/-- "`now=` is given for POLL" (30_encoding.md R50). -/
def Mnemonic.takesNow : Mnemonic → Bool
  | .poll => true
  | .nop | .init | .isReady | .decode | .reset => false

/-- The line gives `pin=` only to a command that takes it. -/
def Line.pinWhereTaken : Line → Bool
  | .beat m pin _ => pin.isNone || m.takesPin
  | .drain | .idle _ => true

/-- The line gives `now=` only to a command that takes it. -/
def Line.nowWhereTaken : Line → Bool
  | .beat m _ now => now.isNone || m.takesNow
  | .drain | .idle _ => true

/-- The line's `now=` fits the port's `TW` = 32 bits (30_encoding.md R42). -/
def Line.nowFits : Line → Bool
  | .beat _ _ now => decide (now.getD 0 < 2 ^ 32)
  | .drain | .idle _ => true

/-- A line as 30_encoding.md R50 describes it. -/
def Line.wellFormed (l : Line) : Bool := l.pinWhereTaken && l.nowWhereTaken && l.nowFits

/-- The beat words a line stands for: "an operand that is omitted is 0 in the beat word" (30_encoding.md R50); DRAIN is
DECODE then RESET, IDLE n is n NOP beats (R51). -/
def Line.words : Line → List BeatWord
  | .beat m pin now => [m.opCode ++ (pin.getD .low).toBit ++ BitVec.ofNat 32 (now.getD 0)]
  | .drain => [encode .decode, encode .reset]
  | .idle n => List.replicate n (encode .nop)

/-- The clock cycles in which the host presents a program, "one beat per line, executed top to bottom" (30_encoding.md
R50). -/
def programCycles (p : List Line) : List Cycle := (p.flatMap Line.words).map Cycle.ofWord

/-- Why a written line is refused. Raised by `parseLine` only; safe: no beat of the hardware is concerned. -/
inductive LineError where
  /-- The first word is no mnemonic of 30_encoding.md R44 and no pseudo-command of R51. -/
  | unknownMnemonic
  /-- The words after the mnemonic are not `[pin=<H|L>] [now=<number>]`, or, after IDLE, not one number (log
  entry 12), or stand after DRAIN. -/
  | badOperands
deriving DecidableEq, Repr

/-- The value of a digit, decimal or hexadecimal. -/
def digitValue (ch : Char) : Option Nat :=
  if '0'.toNat ≤ ch.toNat ∧ ch.toNat ≤ '9'.toNat then some (ch.toNat - '0'.toNat)
  else if 'A'.toNat ≤ ch.toNat ∧ ch.toNat ≤ 'F'.toNat then some (ch.toNat - 'A'.toNat + 10)
  else if 'a'.toNat ≤ ch.toNat ∧ ch.toNat ≤ 'f'.toNat then some (ch.toNat - 'a'.toNat + 10)
  else none

/-- The digits of a number in a base, most significant first, after the value read so far. -/
def readDigits (base : Nat) : (value : Nat) → List Char → Option Nat
  | value, [] => some value
  | value, ch :: rest =>
    match digitValue ch with
    | some d => if d < base then readDigits base (value * base + d) rest else none
    | none => none

/-- `<unsigned decimal or 0x hex>` (30_encoding.md R50). -/
def readNumber : List Char → Option Nat
  | [] => none
  | '0' :: 'x' :: d :: ds => readDigits 16 0 (d :: ds)
  | d :: ds => readDigits 10 0 (d :: ds)

/-- `pin=<H|L>`: "`H` is High = 1 and `L` is Low = 0" (30_encoding.md R50). -/
def readPin : List Char → Option Level
  | ['p', 'i', 'n', '=', 'H'] => some .high
  | ['p', 'i', 'n', '=', 'L'] => some .low
  | _ => none

/-- `now=<number>` (30_encoding.md R50). -/
def readNow : List Char → Option Nat
  | 'n' :: 'o' :: 'w' :: '=' :: ds => readNumber ds
  | _ => none

/-- The mnemonics of 30_encoding.md R44. -/
def readMnemonic : List Char → Option Mnemonic
  | ['N', 'O', 'P'] => some .nop
  | ['I', 'N', 'I', 'T'] => some .init
  | ['P', 'O', 'L', 'L'] => some .poll
  | ['I', 'S', '_', 'R', 'E', 'A', 'D', 'Y'] => some .isReady
  | ['D', 'E', 'C', 'O', 'D', 'E'] => some .decode
  | ['R', 'E', 'S', 'E', 'T'] => some .reset
  | _ => none

/-- The words of a text, separated by blanks, after the letters of the word being read (newest first). -/
def readWords : (word : List Char) → List Char → List (List Char)
  | [], [] => []
  | word, [] => [word.reverse]
  | word, ch :: rest =>
    if ch = ' ' then (if word.isEmpty then readWords [] rest else word.reverse :: readWords [] rest)
    else readWords (ch :: word) rest

/-- A beat line's operands. -/
def readOperands (m : Mnemonic) : List (List Char) → Except LineError Line
  | [] => .ok (.beat m none none)
  | [x] =>
    match readPin x, readNow x with
    | some p, _ => .ok (.beat m (some p) none)
    | none, some n => .ok (.beat m none (some n))
    | none, none => .error .badOperands
  | [x, y] =>
    match readPin x, readNow y with
    | some p, some n => .ok (.beat m (some p) (some n))
    | _, _ => .error .badOperands
  | _ => .error .badOperands

/-- One written line, "with `;` starting a comment" (30_encoding.md R50); `none` for a line with no word before its
comment. DESIGN CHOICE (log entry 12): R51 does not say how the count of `IDLE n` is written; it is read in R50's number
form for `now=`, decimal or `0x` hexadecimal, 0 allowed. DRAIN takes no operand. -/
def parseLine (text : List Char) : Except LineError (Option Line) :=
  match readWords [] (text.takeWhile (· != ';')) with
  | [] => .ok none
  | ['D', 'R', 'A', 'I', 'N'] :: operands => if operands.isEmpty then .ok (some .drain) else .error .badOperands
  | ['I', 'D', 'L', 'E'] :: operands =>
    match operands.map readNumber with
    | [some n] => .ok (some (.idle n))
    | _ => .error .badOperands
  | word :: operands =>
    match readMnemonic word with
    | some m => (readOperands m operands).map some
    | none => .error .unknownMnemonic

end Sys2Proof.Machine
end

