-- ==== Sys2Proof/Safety.lean ====
section
/-! DEFINITION. The terms claims are stated in: the state tuple, the phases, the invariant of every reachable state, the
values a walk of the decoder produces, and the duties of the host that a claim about a correct capture takes as
premises (10_state.md R9, R21, R24; 60_exceptions.md R96; 70_reset_and_hazards.md, section 3). -/

namespace Sys2Proof.Machine

/-! ## The state tuple and the phases -/

/-- The architectural tuple of 10_state.md R9 of a state: what is left when the port `result` and the model's own fields
`inputs` and `resetCount` are put aside. -/
abbrev State.elements (s : State) : Level × Level × Time × Bool × FillIndex × Bool × Memory :=
  (s.levelCurrent, s.levelPrevious, s.timeLastEdge, s.idle, s.fillIndex, s.ready, s.buffer)

/-- The three phases of the capture state machine (10_state.md R21). -/
inductive Phase where
  | idle
  | capturing
  | ready
deriving DecidableEq, Repr

/-- Each phase as the predicate on the state that 10_state.md R21 gives. -/
abbrev State.inPhase (s : State) : Phase → Prop
  | .idle => s.idle = true ∧ s.fillIndex.toNat = 0 ∧ s.ready = false
  | .capturing => s.idle = false ∧ 0 < s.fillIndex.toNat ∧ s.fillIndex.toNat < cfg.capacity ∧ s.ready = false
  | .ready => s.fillIndex.toNat = cfg.capacity ∧ s.ready = true

/-! ## The invariant -/

/-- 10_state.md R24 (e), (f): an entry's magnitude is that of a valid pulse; with the default parameters 401 to 9999. -/
def validMagnitude (e : Entry) : Bool := decide (cfg.durationMin < magnitude e ∧ magnitude e < cfg.durationMax)

/-- What holds in every reachable state: 10_state.md R24 (a), (b), (c), `idle = 0` in Ready (R21), (e) and (f) with every
entry below `fill_index` written since hardware reset, both levels equal (R11), and the buffer in its canonical form. -/
structure State.Inv (s : State) : Prop where
  fill_le : s.fillIndex.toNat ≤ cfg.capacity
  idle_iff : s.idle = true ↔ s.fillIndex.toNat = 0
  ready_iff : s.ready = true ↔ s.fillIndex.toNat = cfg.capacity
  levels_eq : s.levelCurrent = s.levelPrevious
  buffer_wf : Memory.wf s.buffer = true
  entries_valid : ∀ p ∈ s.buffer, validMagnitude p.2 = true
  filled : ∀ i, i < s.fillIndex.toNat → (Memory.read s.buffer i).isSome = true

/-! ## Runs -/

/-- `n` clock cycles, one step each (30_encoding.md R43): `Host.Core.run` of the machine, over `State`. -/
def run : (n : Nat) → State → Host.Outcome State Fault Refusal
  | 0, s => .next s
  | n + 1, s =>
    match step s with
    | .next t => run n t
    | .fault r => .fault r
    | .refused r => .refused r

/-! ## What the environment presents -/

/-- The cycle is a beat of the command `op` (30_encoding.md R43). -/
abbrev Cycle.isBeat (c : Cycle) (op : OpCode) : Prop := c.rst = false ∧ c.op = op

/-- The signed durations of the valid pulses among a sequence of POLL samples, the first sample compared with the given
level and measured from the given time. A sample without an edge moves nothing, and every edge moves both (41_poll.md
R59, R69, R71). A valid pulse counts `dt`, positive when the sampled level is High, negative when it is Low (R60, R62,
R64). -/
def pulseDurations : (level : Level) → (timeLastEdge : Time) → List (Level × Time) → List Int
  | _, _, [] => []
  | level, tle, (pin, now) :: rest =>
    let dt := elapsed cfg now.toNat tle.toNat
    if pin = level then pulseDurations level tle rest
    else if cfg.durationMin < dt ∧ dt < cfg.durationMax then
      (if pin = .high then (dt : Int) else -(dt : Int)) :: pulseDurations pin now rest
    else pulseDurations pin now rest

/-- No sample of the sequence is the gap that abandons a capture (41_poll.md R63). The flag is `idle`: a long silence
while it is set is no such gap (R67), and a valid pulse clears it (R64). -/
def noGap : (idle : Bool) → (level : Level) → (timeLastEdge : Time) → List (Level × Time) → Bool
  | _, _, _, [] => true
  | idle, level, tle, (pin, now) :: rest =>
    if pin = level then noGap idle level tle rest
    else
      match classify cfg (elapsed cfg now.toNat tle.toNat) idle with
      | .gap => false
      | .validPulse => noGap false pin now rest
      | .noise | .idleGap => noGap idle pin now rest

/-- The POLL beats that present a sequence of samples. -/
def pollCycles (samples : List (Level × Time)) : List Cycle := samples.map fun x => ⟨false, 0b010#3, x.1, x.2⟩

/-! ## The duties of the host

None is checked by the block (70_reset_and_hazards.md, section 3); how each is read is log entry 14. -/

/-- The `now` values of the POLL beats, in order. -/
def pollTimes (cs : List Cycle) : List Nat := (cs.filter fun c => decide (Cycle.isBeat c 0b010#3)).map fun c => c.now.toNat

/-- "`now` must come from a monotonic microsecond clock" (70_reset_and_hazards.md R105). -/
abbrev monotonicClock (cs : List Cycle) : Prop := (pollTimes cs).IsChain (· ≤ ·)

/-- "The host must issue POLL beats less than `DURATION_MIN` = 400 microseconds apart" (70_reset_and_hazards.md R101). -/
abbrev pollsCloseTogether (cs : List Cycle) : Prop := (pollTimes cs).IsChain fun a b => b < a + cfg.durationMin

/-- "One INIT beat" before the first POLL since hardware reset (70_reset_and_hazards.md R99). The flag says that an INIT
beat has been presented since then. -/
def initBeforePoll : (seen : Bool) → List Cycle → Bool
  | _, [] => true
  | seen, c :: cs =>
    if c.rst then initBeforePoll false cs
    else if c.op = 0b010#3 then seen && initBeforePoll seen cs
    else initBeforePoll (seen || decide (c.op = 0b001#3)) cs

/-- No reserved code is presented: "Software must not rely on this" (30_encoding.md R48). -/
abbrev assignedCodes (cs : List Cycle) : Prop :=
  ∀ c ∈ cs, c.rst = false → (decodeBeat c.op c.pinLevel c.now).assigned = true

/-- The handshake around a result, over the next `n` cycles. DECODE is presented only while `ready_o` is 1
(70_reset_and_hazards.md R104); a RESET of a Ready block comes after a DECODE of that capture, and a POLL never comes
between that DECODE and the RESET (R103). The flag says that a DECODE has been presented since `ready_o` rose. -/
def keepsHandshake : (n : Nat) → (decoded : Bool) → State → Bool
  | 0, _, _ => true
  | n + 1, decoded, s =>
    (decide (¬ Cycle.isBeat s.currentCycle 0b100#3) || s.readyO) &&
    (decide (¬ Cycle.isBeat s.currentCycle 0b101#3) || !s.readyO || decoded) &&
    (decide (¬ Cycle.isBeat s.currentCycle 0b010#3) || !s.readyO || !decoded) &&
      match step s with
      | .next t => keepsHandshake n (s.readyO && (decoded || decide (Cycle.isBeat s.currentCycle 0b100#3))) t
      | .fault _ => false
      | .refused _ => false

/-- The next `n` cycles, in which the host keeps every duty that its inputs show (60_exceptions.md R96). -/
abbrev safeRun (n : Nat) (s : State) : Prop :=
  monotonicClock (s.inputs.take n) ∧ pollsCloseTogether (s.inputs.take n) ∧ initBeforePoll false (s.inputs.take n) = true ∧
    assignedCodes (s.inputs.take n) ∧ keepsHandshake n false s = true

end Sys2Proof.Machine
end

