-- ==== Sys2Proof/Certificates/Slice0/Obligations.lean ====
section
/-! DEFINITION. The statements for the provers. Each cites the rules of spec/ it rests on; where a clause rests on a choice
of the model, the docstring names the log entry. -/

open Sys2Proof Sys2Proof.Machine

/-! ## Parameters -/

/-- 00_scope.md R4, R5: the default parameters satisfy the constraints, with the two consequences that R5 draws. -/
def Obligations.DefaultParametersAreLegal : Prop :=
  cfg.legal ∧ dmaxMag cfg = 32767 ∧ cfg.durationMax - 1 ≤ dmaxMag cfg ∧ nbits cfg = 32 ∧ nbits cfg = cfg.cw

/-! ## Encoding -/

/-- 30_encoding.md R44, R47: the beat word of every command, read as a number, decodes to that command with every
operand, and is in canonical form. -/
def Obligations.DecodeOfEncodeIsTheCommand : Prop :=
  ∀ i : Instr, decode (encode i).toNat = .ok i ∧ canonicalWord (encode i)

/-- 30_encoding.md R45, R47: encoding what a word decodes to gives the word back with exactly the bits the command does
not use cleared; so the words of one command differ only in bits it ignores. -/
def Obligations.EncodeOfDecodeClearsUnusedBits : Prop :=
  ∀ w : BeatWord, encode (decodeWord w) = w &&& usedMask (wordOp w)

/-- 30_encoding.md R49, R52: every beat word belongs to exactly one row of the opcode table, and decodes to that row's
command. -/
def Obligations.EveryWordHasExactlyOneTableRow : Prop :=
  ∀ w : BeatWord, ∃ r ∈ opcodeTable, w &&& r.mask = r.pattern ∧ (decodeWord w).mnemonic = r.mnemonic ∧
    ∀ r' ∈ opcodeTable, w &&& r'.mask = r'.pattern → r' = r

/-- Words written out from 30_encoding.md R44, R47 and R48 decode to their commands. -/
def Obligations.WrittenOutWordsDecode : Prop :=
  decodeWord 0x000000000#36 = .nop ∧ decodeWord 0x300000000#36 = .init .high ∧
  decodeWord 0x5000003E8#36 = .poll .high 1000#32 ∧ decodeWord 0x400004E20#36 = .poll .low 20000#32 ∧
  decodeWord 0x600000000#36 = .isReady ∧ decodeWord 0x800000000#36 = .decode ∧ decodeWord 0xA00000000#36 = .reset ∧
  decodeWord 0xC00000000#36 = .reserved110 ∧ decodeWord 0xE00000000#36 = .reserved111

/-- 30_encoding.md R50: a well-formed beat line stands for the canonical word of its command, omitted operands being 0
(Low for `pin=`); DRAIN and IDLE n expand as R51 says. -/
def Obligations.StimulusLinesStandForTheirBeats : Prop :=
  (∀ m pin now, (Line.beat m pin now).wellFormed = true →
    (Line.beat m pin now).words = [encode (match m with
      | .nop => .nop
      | .init => .init (pin.getD .low)
      | .poll => .poll (pin.getD .low) (BitVec.ofNat 32 (now.getD 0))
      | .isReady => .isReady
      | .decode => .decode
      | .reset => .reset)]) ∧
  programCycles [.drain] = [⟨false, 0b100#3, .low, 0#32⟩, ⟨false, 0b101#3, .low, 0#32⟩] ∧
  ∀ n, programCycles [.idle n] = List.replicate n ⟨false, 0b000#3, .low, 0#32⟩

/-! ## Steps, hardware reset, the state after reset -/

/-- 30_encoding.md R43: a cycle with `rst = 0` performs exactly the operation its ports select, on the state from which
that cycle's samples have been taken; a beat word placed by `withFetchWord` (log entry 11) is run by the very next step. -/
def Obligations.StepRunsThePresentedCommand : Prop :=
  (∀ (s : State) (c : Cycle) (rest : List Cycle), s.inputs = c :: rest → c.rst = false →
    step s = exec (decodeBeat c.op c.pinLevel c.now) { s with inputs := rest }) ∧
  ∀ (s : State) (nbits w : Nat) (i : Instr), decodeTableWord nbits w = some i → step (s.withFetchWord nbits w) = exec i s

/-- The model's choice (log entry 2), after 43_rearm.md R86: when the host presents nothing the cycle is a NOP beat. -/
def Obligations.UndrivenCycleIsNop : Prop :=
  ∀ s : State, s.inputs = [] → step s = exec .nop s

/-- 10_state.md R27, 30_encoding.md R53, 70_reset_and_hazards.md R97: a cycle with `rst = 1`, whatever command it carries,
forces the reset values, with `result = 0` and `ready_o = 0`, and the buffer unspecified: every entry reads as the free
value (log entry 4). The cycles still to come are the host's (log entry 10). -/
def Obligations.HardwareResetForcesResetValues : Prop :=
  ∀ (s : State) (c : Cycle) (rest : List Cycle), s.inputs = c :: rest → c.rst = true →
    ∃ t, step s = .next t ∧ t.levelCurrent = .low ∧ t.levelPrevious = .low ∧ t.timeLastEdge = 0#32 ∧ t.idle = true ∧
      t.fillIndex = 0#7 ∧ t.ready = false ∧ t.result = 0#32 ∧ t.readyO = false ∧ t.inputs = rest ∧
      ∀ k, t.entryAt k = Config.powerOnEntry (s.resetCount + 1) k

/-- 30_encoding.md R43, 60_exceptions.md R87, 70_reset_and_hazards.md R110: no run of any length from any state ends in a
fault or a refusal, and every cycle takes exactly one sample of the ports. -/
def Obligations.NoRunEverStops : Prop :=
  ∀ (n : Nat) (s : State), ∃ t, run n s = .next t ∧ t.inputs = s.inputs.drop n

/-- 10_state.md R27: the registers after hardware reset (levels and time origin: the spec's decision D10, log entry 8).
70_reset_and_hazards.md R97 gives the ports: `result = 0` and `ready_o = 0` under `rst`. That State holds `result`, with that 0
in State.reset, is the model's choice (log entry 3). -/
def Obligations.ResetStateValues : Prop :=
  State.reset.idle = true ∧ State.reset.fillIndex = 0#7 ∧ State.reset.ready = false ∧ State.reset.levelCurrent = .low ∧
    State.reset.levelPrevious = .low ∧ State.reset.timeLastEdge = 0#32 ∧ State.reset.readyO = false ∧
    State.reset.result = 0#32 ∧ State.reset.inPhase .idle

/-! ## The invariant and the phases -/

/-- 10_state.md R24, R27: the invariant holds after hardware reset. -/
def Obligations.ResetStateMeetsTheInvariant : Prop := State.reset.Inv

/-- 10_state.md R24: every step, from every state that meets the invariant, gives one that meets it. -/
def Obligations.EveryStepKeepsTheInvariant : Prop :=
  ∀ s t : State, s.Inv → step s = .next t → t.Inv

/-- 10_state.md R21, R24 (d): a state that meets the invariant is in exactly one phase, and `idle` is 0 in Ready. -/
def Obligations.ExactlyOnePhase : Prop :=
  ∀ s : State, s.Inv → (∃! p, s.inPhase p) ∧ (s.inPhase .ready → s.idle = false)

/-- 10_state.md R22: a command changes the phase only in these ways: a valid pulse from Idle to Capturing, a gap or RESET
from Capturing to Idle, the valid pulse that writes entry 65 from Capturing to Ready, RESET from Ready to Idle. -/
def Obligations.PhaseChangesOnlyAsTheTableSays : Prop :=
  ∀ (s t : State) (i : Instr) (p q : Phase), s.Inv → exec i s = .next t → s.inPhase p → t.inPhase q → p ≠ q →
    (p = .idle ∧ q = .capturing ∧ ∃ pin now, i = .poll pin now ∧ pin ≠ s.levelPrevious ∧
      400 < elapsed cfg now.toNat s.timeLastEdge.toNat ∧ elapsed cfg now.toNat s.timeLastEdge.toNat < 10000) ∨
    (p = .capturing ∧ q = .idle ∧ (i = .reset ∨
      ∃ pin now, i = .poll pin now ∧ pin ≠ s.levelPrevious ∧ 10000 ≤ elapsed cfg now.toNat s.timeLastEdge.toNat)) ∨
    (p = .capturing ∧ q = .ready ∧ s.fillIndex = 65#7 ∧ ∃ pin now, i = .poll pin now ∧ pin ≠ s.levelPrevious ∧
      400 < elapsed cfg now.toNat s.timeLastEdge.toNat ∧ elapsed cfg now.toNat s.timeLastEdge.toNat < 10000) ∨
    (p = .ready ∧ q = .idle ∧ i = .reset)

/-- 10_state.md R14: `ready`, once set, is cleared only by RESET or hardware reset. -/
def Obligations.ReadyIsClearedOnlyByReset : Prop :=
  ∀ s t : State, s.ready = true → step s = .next t → t.ready = false →
    s.currentCycle.rst = true ∨ s.currentCycle.op = 0b101#3

/-- 10_state.md R15, R20: in one cycle `fill_index` stays, advances by exactly one (a valid pulse below `CAPACITY`), or
goes to 0 (a gap in a POLL, RESET, hardware reset). -/
def Obligations.FillIndexStaysAdvancesByOneOrClears : Prop :=
  ∀ s t : State, step s = .next t →
    t.fillIndex = s.fillIndex ∨
    (t.fillIndex.toNat = s.fillIndex.toNat + 1 ∧ t.fillIndex.toNat ≤ 66 ∧
      s.currentCycle.rst = false ∧ s.currentCycle.op = 0b010#3 ∧ s.ready = false) ∨
    (t.fillIndex = 0#7 ∧ (s.currentCycle.rst = true ∨ s.currentCycle.op = 0b101#3 ∨
      (s.currentCycle.op = 0b010#3 ∧ s.ready = false ∧ s.idle = false)))

/-! ## INIT -/

/-- 40_initialize.md R54, R55: INIT completes in every state, loads both level registers with the sample, and changes
nothing else but the port `result`, which carries 0. -/
def Obligations.InitLoadsBothLevelsOnly : Prop :=
  ∀ (pin : Level) (s : State),
    exec (.init pin) s = .next { s with levelCurrent := pin, levelPrevious := pin, result := 0#32 }

/-! ## POLL -/

/-- 41_poll.md R57: POLL in Ready changes no state element and ignores both samples. -/
def Obligations.PollWhileReadyIsInert : Prop :=
  ∀ (pin : Level) (now : Time) (s : State), s.ready = true → exec (.poll pin now) s = .next { s with result := 0#32 }

/-- 41_poll.md R59: a POLL whose sample equals `level_previous` ends with both levels equal to it and changes nothing
else; `now` is ignored. -/
def Obligations.PollWithoutEdgeOnlySamples : Prop :=
  ∀ (pin : Level) (now : Time) (s : State), s.ready = false → pin = s.levelPrevious →
    exec (.poll pin now) s = .next { s with levelCurrent := pin, levelPrevious := pin, result := 0#32 }

/-- 10_state.md R11 and 41_poll.md R71: INIT, and every POLL executed while `ready = 0`, edge or not, ends with both level
registers equal to the sample. -/
def Obligations.LevelsFollowTheSample : Prop :=
  (∀ (pin : Level) (s : State), ∃ t, exec (.init pin) s = .next t ∧ t.levelPrevious = pin ∧ t.levelCurrent = pin) ∧
  ∀ (pin : Level) (now : Time) (s : State), s.ready = false →
    ∃ t, exec (.poll pin now) s = .next t ∧ t.levelPrevious = pin ∧ t.levelCurrent = pin

/-- 10_state.md R12, 41_poll.md R69: `time_last_edge` takes `now` at every POLL that detects an edge, in every class, and
no other command and no other POLL writes it. -/
def Obligations.TimeOriginMovesExactlyOnEdges : Prop :=
  ∀ (i : Instr) (s : State), ∃ t, exec i s = .next t ∧
    t.timeLastEdge = (match i with
      | .poll pin now => if s.ready = false ∧ pin ≠ s.levelPrevious then now else s.timeLastEdge
      | _ => s.timeLastEdge)

/-- 41_poll.md R60, decision D6 (log entry 7): `dt` is the difference modulo 2^32, the plain difference when the clock has
not stepped back. -/
def Obligations.ElapsedTimeIsTheModularDifference : Prop :=
  ∀ now last : Time, elapsed cfg now.toNat last.toNat = (now - last).toNat ∧
    (last.toNat ≤ now.toNat → elapsed cfg now.toNat last.toNat = now.toNat - last.toNat)

/-- 41_poll.md R68: for every legal configuration each `(dt, idle)` is in exactly the class whose condition it meets. -/
def Obligations.EdgeClassesAreDisjointAndCover : Prop :=
  ∀ (c : Config) (dt : Nat) (idle : Bool), c.legal →
    (classify c dt idle = .gap ↔ c.durationMax ≤ dt ∧ idle = false) ∧
    (classify c dt idle = .validPulse ↔ c.durationMin < dt ∧ dt < c.durationMax) ∧
    (classify c dt idle = .noise ↔ dt ≤ c.durationMin) ∧
    (classify c dt idle = .idleGap ↔ c.durationMax ≤ dt ∧ idle = true)

/-- 41_poll.md R61, R62, R72: for every legal configuration the entry's value is `min(dt, DMAX_MAG)` with the sign of the
sampled level, lies in the symmetric range, and is exact as a `DW`-bit two's complement number. -/
def Obligations.EntryValueIsSaturatedAndExact : Prop :=
  ∀ (c : Config) (dt : Nat), c.legal →
    entryValue c .high dt = min dt (2 ^ (c.dw - 1) - 1 : Nat) ∧ entryValue c .low dt = -entryValue c .high dt ∧
    ∀ l, (BitVec.ofInt c.dw (entryValue c l dt)).toInt = entryValue c l dt

/-- 41_poll.md R63 with R69, R71: a gap in a capture abandons it: `idle <- 1`, `fill_index <- 0`, the time origin and the
levels move, every buffer entry stays. -/
def Obligations.GapAbandonsTheCapture : Prop :=
  ∀ (pin : Level) (now : Time) (s : State), s.ready = false → pin ≠ s.levelPrevious → s.idle = false →
    10000 ≤ elapsed cfg now.toNat s.timeLastEdge.toNat →
    exec (.poll pin now) s = .next { s with
      levelCurrent := pin, levelPrevious := pin, timeLastEdge := now, idle := true, fillIndex := 0#7, result := 0#32 }

/-- 41_poll.md R66, R67 with R69, R70, R71: noise, and a gap while idle, move only the time origin and the levels; the
latch's test of R70 sets `ready` only in the unreachable case `fill_index = CAPACITY` with `ready = 0`. -/
def Obligations.IgnoredEdgeMovesOnlyTimeAndLevels : Prop :=
  ∀ (pin : Level) (now : Time) (s : State), s.ready = false → pin ≠ s.levelPrevious →
    (elapsed cfg now.toNat s.timeLastEdge.toNat ≤ 400 ∨ (10000 ≤ elapsed cfg now.toNat s.timeLastEdge.toNat ∧ s.idle = true)) →
    exec (.poll pin now) s = .next { s with
      levelCurrent := pin, levelPrevious := pin, timeLastEdge := now, ready := decide (s.fillIndex.toNat = 66),
      result := 0#32 }

/-- 41_poll.md R60 to R62, R64, R69 to R71: a valid pulse with room completes: the entry at `fill_index` is the signed
`dt`, every other entry stays, `fill_index` advances by one, `idle <- 0`, and `ready` is set exactly by the entry that
fills the buffer. -/
def Obligations.ValidPulseAppendsOneEntry : Prop :=
  ∀ (pin : Level) (now : Time) (s : State), s.ready = false → pin ≠ s.levelPrevious → 400 < elapsed cfg now.toNat s.timeLastEdge.toNat →
    elapsed cfg now.toNat s.timeLastEdge.toNat < 10000 → s.fillIndex.toNat < 66 →
    ∃ t, exec (.poll pin now) s = .next t ∧
      (t.entryAt s.fillIndex.toNat).toInt =
        (if pin = .high then (elapsed cfg now.toNat s.timeLastEdge.toNat : Int) else -(elapsed cfg now.toNat s.timeLastEdge.toNat : Int)) ∧
      (∀ k, k ≠ s.fillIndex.toNat → t.entryAt k = s.entryAt k) ∧
      t.fillIndex.toNat = s.fillIndex.toNat + 1 ∧ t.idle = false ∧ t.timeLastEdge = now ∧ t.levelCurrent = pin ∧
      t.levelPrevious = pin ∧ (t.ready = true ↔ s.fillIndex.toNat = 65) ∧ t.result = 0#32 ∧ t.inputs = s.inputs ∧
      t.resetCount = s.resetCount

/-- 41_poll.md R65, R70, 10_state.md R25: a valid pulse without room writes no entry and keeps `fill_index`; `idle <- 0`
is still performed, and `ready` is set only if `fill_index = CAPACITY` exactly. -/
def Obligations.ValidPulseWithoutRoomIsDropped : Prop :=
  ∀ (pin : Level) (now : Time) (s : State), s.ready = false → pin ≠ s.levelPrevious → 400 < elapsed cfg now.toNat s.timeLastEdge.toNat →
    elapsed cfg now.toNat s.timeLastEdge.toNat < 10000 → 66 ≤ s.fillIndex.toNat →
    exec (.poll pin now) s = .next { s with
      levelCurrent := pin, levelPrevious := pin, timeLastEdge := now, idle := false,
      ready := decide (s.fillIndex.toNat = 66), result := 0#32 }

/-- 41_poll.md R70: on a POLL that detects an edge while `ready = 0`, `ready` ends as `fill_index = CAPACITY` on the value
after the append, so the valid pulse that writes entry 65 sets it in the same beat; a POLL without an edge does not set
it; no POLL clears it, and from then on POLL is inert. -/
def Obligations.ReadyLatchesExactlyAtCapacity : Prop :=
  ∀ (pin : Level) (now : Time) (s : State), ∃ t, exec (.poll pin now) s = .next t ∧
    (s.ready = false → pin ≠ s.levelPrevious → (t.ready = true ↔ t.fillIndex.toNat = 66)) ∧
    (s.ready = false → pin = s.levelPrevious → t.ready = false) ∧
    (s.ready = false → pin ≠ s.levelPrevious → s.timeLastEdge.toNat + 400 < now.toNat →
      now.toNat < s.timeLastEdge.toNat + 10000 → s.fillIndex.toNat = 65 → t.ready = true) ∧
    (s.ready = true → t.ready = true) ∧
    (t.ready = true → ∀ pin' now', ∃ u, exec (.poll pin' now') t = .next u ∧ u.elements = t.elements)

/-- The frame of the buffer over all commands (20_memory.md R31, R32, R33): only a POLL that finds a valid pulse while
not ready and with room changes an entry, and then only the one at `fill_index` before the beat. -/
def Obligations.BufferChangesOnlyAtFillIndex : Prop :=
  ∀ (i : Instr) (s : State), ∃ t, exec i s = .next t ∧
    ∀ k, (k ≠ s.fillIndex.toNat ∨
        ¬ ∃ pin now, i = .poll pin now ∧ s.ready = false ∧ pin ≠ s.levelPrevious ∧ 400 < elapsed cfg now.toNat s.timeLastEdge.toNat ∧
          elapsed cfg now.toNat s.timeLastEdge.toNat < 10000 ∧ s.fillIndex.toNat < 66) →
      t.entryAt k = s.entryAt k

/-- 70_reset_and_hazards.md R100, R102 (the spec's decisions D10, D11; log entry 8): a first POLL that samples High right
after hardware reset measures `dt = now`; between the thresholds it stores the spurious entry 0, otherwise it is
ignored. -/
def Obligations.FirstEdgeAfterResetMeasuresNow : Prop :=
  ∀ now : Time, ∃ t, exec (.poll .high now) State.reset = .next t ∧ t.timeLastEdge = now ∧ t.levelPrevious = .high ∧
    (400 < now.toNat → now.toNat < 10000 →
      (t.entryAt 0).toInt = now.toNat ∧ t.fillIndex = 1#7 ∧ t.idle = false ∧ t.ready = false) ∧
    (now.toNat ≤ 400 ∨ 10000 ≤ now.toNat →
      t.buffer = [] ∧ t.fillIndex = 0#7 ∧ t.idle = true ∧ t.ready = false)

/-! ## IS_READY and DECODE -/

/-- 42_query.md R74, 30_encoding.md R46: IS_READY completes in every state, `result` is 1 or 0 as `ready` is, the port
`ready_o` shows the same, and nothing else changes. -/
def Obligations.IsReadyReturnsTheReadyFlag : Prop :=
  ∀ s : State, exec .isReady s = .next { s with result := if s.ready then 1#32 else 0#32 } ∧
    (s.readyO = true ↔ s.ready = true)

/-- 42_query.md R75: when not ready DECODE returns 0, changes no element and reads no entry (its result is 0 whatever the
buffer holds); and a full, reachable-looking buffer also decodes to 0, so the result alone does not tell. -/
def Obligations.DecodeReturnsSentinelWhenNotReady : Prop :=
  (∀ (s : State) (m : Memory) (n : Nat), s.ready = false →
    ∃ t, exec .decode { s with buffer := m, resetCount := n } = .next t ∧ t.result = 0#32 ∧
      t.elements = ({ s with buffer := m, resetCount := n } : State).elements) ∧
  ∃ s t : State, s.Inv ∧ s.ready = true ∧ exec .decode s = .next t ∧ t.result = 0#32

/-- 42_query.md R76, R77, R78: in Ready, bit `31 - k` of the result is 1 exactly when the magnitude of entry `3 + 2k` is
strictly more than 1.5 times that of entry `2 + 2k`, as rational numbers, for the 32 pairs `k`; nothing else changes. It
ranges over every pattern an entry can hold: the magnitude 32768 of `0x8000`, which is never stored, is the model's
reading (log entry 17). -/
def Obligations.DecodeBitsAreTheStrictComparisons : Prop :=
  ∀ s : State, s.ready = true → ∃ t, exec .decode s = .next t ∧ t.elements = s.elements ∧
    ∀ k, k < 32 →
      (t.result.getLsbD (31 - k) = true ↔
        (magnitude (s.entryAt (3 + 2 * k)) : ℚ) > 3 / 2 * (magnitude (s.entryAt (2 + 2 * k)) : ℚ))

/-- 42_query.md R81, decision D16: the integer comparator is the exact comparison, and its products fit 17 bits. -/
def Obligations.IntegerComparatorIsExact : Prop :=
  ∀ ref cur : Nat, (pairBit cfg ref cur = true ↔ (cur : ℚ) > 3 / 2 * (ref : ℚ)) ∧
    (ref ≤ 32767 → cur ≤ 32767 → 3 * ref < 2 ^ 17 ∧ 2 * cur < 2 ^ 17)

/-- 42_query.md R76, R78, 20_memory.md R37: for every legal configuration the walk visits `NBITS` indices, all of them and
their predecessors inside the buffer, and stops at the last one that is. -/
def Obligations.DecoderVisitsEveryIndexInRange : Prop :=
  ∀ c : Config, c.legal →
    (decodeIndices c).length = nbits c ∧
    (∀ i, i ∈ decodeIndices c ↔
      c.decodeStart ≤ i ∧ i ≤ c.capacity - 1 ∧ ∃ k, i = c.decodeStart + k * c.decodeStride) ∧
    ∀ i ∈ decodeIndices c, 1 ≤ i ∧ i < c.capacity

/-- 42_query.md R79: for every legal configuration the walk keeps the low `CW` bits of the `NBITS` bits, so that a wider
result has zeros above and a narrower one holds the last pairs. -/
def Obligations.DecodeKeepsTheLowBits : Prop :=
  ∀ (c : Config) (mag : Nat → Nat), c.legal →
    decodeWalk c mag = decodeWalk { c with cw := c.cw + nbits c } mag % 2 ^ c.cw ∧ decodeWalk c mag < 2 ^ nbits c

/-- 10_state.md R26, 42_query.md R80, 20_memory.md R34: two states that agree on `ready` and, when it is 1, on the
magnitudes of entries 2 to 65 give the same results now; signs, entries 0 and 1 and every other register do not show. -/
def Obligations.OutputsDependOnlyOnReadyAndMagnitudes : Prop :=
  ∀ s s' : State, s.ready = s'.ready →
    (s.ready = true → ∀ k, 2 ≤ k → k ≤ 65 → magnitude (s.entryAt k) = magnitude (s'.entryAt k)) →
    s.readyO = s'.readyO ∧ ∀ i : Instr, ∃ t t', exec i s = .next t ∧
      exec i s' = .next t' ∧ t.result = t'.result

/-- 20_memory.md R35: in a Ready state that meets the invariant every entry DECODE reads has been written, so that no free
value reaches the result, and its magnitude is that of a valid pulse. -/
def Obligations.DecodeReadsOnlyWrittenEntries : Prop :=
  ∀ s : State, s.Inv → s.ready = true → ∀ i ∈ decodeIndices cfg,
    ∃ u v, Memory.read s.buffer (i - 1) = some u ∧ Memory.read s.buffer i = some v ∧ s.entryAt (i - 1) = u ∧
      s.entryAt i = v ∧ (401 ≤ magnitude u ∧ magnitude u ≤ 9999) ∧ 401 ≤ magnitude v ∧ magnitude v ≤ 9999

/-- 42_query.md R83 (e): in a Ready state that meets the invariant a pair gives 1 only if its reference is at most 6665. -/
def Obligations.OneBitNeedsReferenceAtMost6665 : Prop :=
  ∀ s t : State, s.Inv → s.ready = true → exec .decode s = .next t → ∀ k, k < 32 → t.result.getLsbD (31 - k) = true →
    magnitude (s.entryAt (2 + 2 * k)) ≤ 6665

/-- 42_query.md R76 to R78 (95_test_vectors.md E5 as resolved by 90_conflicts.md C1, C4): pairs all above 1.5 decode to
32 ones, pairs all at most 1.5 to 0. The magnitude of `0x8000`, which is never stored, is log entry 17. -/
def Obligations.AllLongDecodesToOnesAllShortToZero : Prop :=
  ∀ s : State, s.ready = true →
    ((∀ k, k < 32 → 3 * magnitude (s.entryAt (2 + 2 * k)) < 2 * magnitude (s.entryAt (3 + 2 * k))) →
      exec .decode s = .next { s with result := 0xFFFFFFFF#32 }) ∧
    ((∀ k, k < 32 → 2 * magnitude (s.entryAt (3 + 2 * k)) ≤ 3 * magnitude (s.entryAt (2 + 2 * k))) →
      exec .decode s = .next { s with result := 0#32 })

/-- 42_query.md R80, 41_poll.md R57, 43_rearm.md R85 (c): from Ready, through any run of cycles without RESET and without
`rst`, the capture is frozen: `ready` stays, the buffer, `fill_index`, `idle` and `time_last_edge` stay, and DECODE
returns the same result. The run may outlast `s.inputs`: that a cycle in which the host presents nothing is a NOP beat,
and so no RESET, is the model's reading (log entry 2). -/
def Obligations.ReadyFreezesTheCapture : Prop :=
  ∀ (n : Nat) (s : State), s.ready = true → (∀ c ∈ s.inputs.take n, c.rst = false ∧ c.op ≠ 0b101#3) →
    ∃ t, run n s = .next t ∧ t.ready = true ∧ t.fillIndex = s.fillIndex ∧ t.idle = s.idle ∧
      t.timeLastEdge = s.timeLastEdge ∧ t.buffer = s.buffer ∧
      ∃ u v, exec .decode s = .next u ∧ exec .decode t = .next v ∧ v.result = u.result

/-! ## RESET, NOP, the reserved codes -/

/-- 10_state.md R28: RESET writes exactly `ready`, `fill_index` and `idle`; the levels, the time origin and every entry
stay. A hardware reset writes every register: what they hold after it does not depend on what they held before. That the
list of written buffer entries does not either is the model's choice: R27 leaves the entries unspecified, and they become
free values again (log entries 4 and 10). -/
def Obligations.ResetCommandIsNotHardwareReset : Prop :=
  (∀ s : State, ∃ t, exec .reset s = .next t ∧ t.ready = false ∧ t.fillIndex = 0#7 ∧ t.idle = true ∧
    t.levelCurrent = s.levelCurrent ∧ t.levelPrevious = s.levelPrevious ∧ t.timeLastEdge = s.timeLastEdge ∧
    ∀ k, t.entryAt k = s.entryAt k) ∧
  ∀ s s' : State, s.currentCycle.rst = true → s'.currentCycle.rst = true →
    ∃ t t', step s = .next t ∧ step s' = .next t' ∧ t.elements = t'.elements

/-- 43_rearm.md R84, R85: RESET completes in every state with `result = 0`, leaves the block Idle, and is idempotent; the
DECODE after it returns the sentinel. -/
def Obligations.ResetRearmsFromEveryState : Prop :=
  ∀ s : State, ∃ t,
    t = { s with ready := false, fillIndex := 0#7, idle := true, result := 0#32 } ∧ exec .reset s = .next t ∧
      t.inPhase .idle ∧ exec .reset t = .next t ∧ exec .decode t = .next t

/-- 43_rearm.md R86, 30_encoding.md R48 (decision D3, log entry 6): NOP and both reserved codes complete in every state,
change no state element and drive `result = 0`. -/
def Obligations.NopAndReservedCodesDoNothing : Prop :=
  ∀ s : State, exec .nop s = .next { s with result := 0#32 } ∧ exec .reserved110 s = .next { s with result := 0#32 } ∧
    exec .reserved111 s = .next { s with result := 0#32 }

/-- 43_rearm.md R86: "Any number of NOP beats may be inserted between any two beats without changing any later state or
result": every run over `pre`, then NOP beats with any values on the ports NOP ignores, then at least one more cycle ends
as the run without them. -/
def Obligations.InsertedNopBeatsChangeNothing : Prop :=
  ∀ (s : State) (pre nops post : List Cycle), (∀ c ∈ nops, Cycle.isBeat c 0b000#3) → post ≠ [] →
    run (pre.length + nops.length + post.length) { s with inputs := pre ++ nops ++ post } =
      run (pre.length + post.length) { s with inputs := pre ++ post }

/-! ## A whole capture -/

/-- 60_exceptions.md R96, 41_poll.md R59, R60, R62, R64, R66, R67, R69 to R71: "`ready` latched once 66 valid pulses have
been stored without an intervening gap". From a state that meets the invariant and is not Ready, POLL beats among which
the valid pulses just fill the buffer, with any POLLs without an edge and any ignored edges between them but no gap, all
complete and leave it Ready, with every new entry the signed duration of its pulse and the older entries as they were. A
`now` that has stepped back is measured by the spec's decision D6 (log entry 7). -/
def Obligations.ValidPulsesFillTheBufferAndLatchReady : Prop :=
  ∀ (s : State) (samples : List (Level × Time)) (rest : List Cycle), s.Inv → s.ready = false →
    s.fillIndex.toNat + (pulseDurations s.levelPrevious s.timeLastEdge samples).length = 66 →
    noGap s.idle s.levelPrevious s.timeLastEdge samples = true → s.inputs = pollCycles samples ++ rest →
    ∃ t, run samples.length s = .next t ∧ t.ready = true ∧ t.fillIndex.toNat = 66 ∧ t.inputs = rest ∧
      (∀ k, k < s.fillIndex.toNat → t.entryAt k = s.entryAt k) ∧
      ∀ k v, (pulseDurations s.levelPrevious s.timeLastEdge samples)[k]? = some v →
        (t.entryAt (s.fillIndex.toNat + k)).toInt = v
end

