-- ==== Sys2Proof/Laws/Config.lean ====
section
/-! SUPPORT. The constants of the hardware, and the two consequences of 00_scope.md R5. -/

namespace Sys2Proof

/-- State's registers and the result port have the widths of the configuration (log entry 9). -/
theorem cfg_widths : cfg.tw = 32 ∧ cfg.dw = 16 ∧ cfg.cw = 32 ∧ cfg.fw = 7 := ⟨rfl, rfl, rfl, rfl⟩

namespace Machine

@[simp] theorem dmaxMag_cfg : dmaxMag cfg = 32767 := rfl
@[simp] theorem nbits_cfg : nbits cfg = 32 := rfl

/-- With the default parameters saturation never changes the magnitude of a valid pulse (00_scope.md R5). -/
theorem saturate_of_lt_durationMax {dt : Nat} (h : dt < cfg.durationMax) : saturate cfg dt = dt := by
  simp only [saturate, dmaxMag_cfg] at *
  omega

/-- `dt` is a `TW`-bit number. -/
theorem elapsed_lt (c : Config) (now last : Nat) : elapsed c now last < 2 ^ c.tw :=
  Nat.mod_lt _ (Nat.two_pow_pos _)

/-- On a clock that has not stepped back, `dt` is the plain difference (41_poll.md R60). -/
theorem elapsed_of_le {c : Config} {now last : Nat} (h : last ≤ now) (hn : now < 2 ^ c.tw) :
    elapsed c now last = now - last := by
  have e : 2 ^ c.tw - last + now = now - last + 2 ^ c.tw := by omega
  rw [elapsed, e, Nat.add_mod_right, Nat.mod_eq_of_lt (by omega)]

/-- `dt` of two clock values is their difference as bit vectors. -/
theorem elapsed_toNat (now last : Time) : elapsed cfg now.toNat last.toNat = (now - last).toNat := by
  simp [elapsed, BitVec.toNat_sub]

end Machine

end Sys2Proof
end

