-- ==== Sys2Proof/Laws/Encoding.lean ====
section
/-! SUPPORT. The three fields of a beat word come back from their places (30_encoding.md R47), and a level from its bit. -/

namespace Sys2Proof

/-- The bits of `op ‖ pin_level ‖ now`, by position. -/
theorem getLsbD_fields (a : OpCode) (b : BitVec 1) (n : Time) (k : Nat) :
    (a ++ b ++ n : BeatWord).getLsbD k =
      if k < 32 then n.getLsbD k else if k < 33 then b.getLsbD (k - 32) else a.getLsbD (k - 33) := by
  have h1 := BitVec.getLsbD_append (x := a ++ b) (y := n) (i := k)
  have h2 := BitVec.getLsbD_append (x := a) (y := b) (i := k - 32)
  refine h1.trans ?_
  rw [h2]
  by_cases h : k < 32
  · simp [h]
  · by_cases h' : k < 33
    · simp [h, h', show k - 32 < 1 by omega]
    · simp [h, h', show ¬ (k - 32 < 1) by omega, show k - 32 - 1 = k - 33 by omega]

theorem op_field (a : OpCode) (b : BitVec 1) (n : Time) : (a ++ b ++ n : BeatWord).extractLsb' 33 3 = a := by
  apply BitVec.eq_of_getLsbD_eq
  intro k hk
  simp only [BitVec.getLsbD_extractLsb', getLsbD_fields]
  simp [hk]
  omega

theorem pin_field (a : OpCode) (b : BitVec 1) (n : Time) : (a ++ b ++ n : BeatWord).extractLsb' 32 1 = b := by
  apply BitVec.eq_of_getLsbD_eq
  intro k hk
  simp only [BitVec.getLsbD_extractLsb', getLsbD_fields]
  have : k = 0 := by omega
  subst this
  simp

theorem now_field (a : OpCode) (b : BitVec 1) (n : Time) : (a ++ b ++ n : BeatWord).extractLsb' 0 32 = n := by
  apply BitVec.eq_of_getLsbD_eq
  intro k hk
  simp only [BitVec.getLsbD_extractLsb', getLsbD_fields]
  simp [hk]

@[simp] theorem ofBit_toBit (l : Level) : Level.ofBit l.toBit = l := by cases l <;> rfl

@[simp] theorem wordOp_encode (i : Instr) : wordOp (encode i) = i.opBits := op_field _ _ _

@[simp] theorem wordPin_encode (i : Instr) : wordPin (encode i) = Level.ofBit i.pinBit := congrArg Level.ofBit (pin_field _ _ _)

@[simp] theorem wordNow_encode (i : Instr) : wordNow (encode i) = i.nowBits := now_field _ _ _

end Sys2Proof
end

