-- ==== Sys2Proof/Laws/State.lean ====
section
/-! SUPPORT. What each named update of the state leaves in each field. -/

namespace Sys2Proof.Machine

section drive
variable (s : State) (r : Code)
@[simp] theorem drive_levelCurrent : (s.drive r).levelCurrent = s.levelCurrent := rfl
@[simp] theorem drive_levelPrevious : (s.drive r).levelPrevious = s.levelPrevious := rfl
@[simp] theorem drive_timeLastEdge : (s.drive r).timeLastEdge = s.timeLastEdge := rfl
@[simp] theorem drive_idle : (s.drive r).idle = s.idle := rfl
@[simp] theorem drive_fillIndex : (s.drive r).fillIndex = s.fillIndex := rfl
@[simp] theorem drive_ready : (s.drive r).ready = s.ready := rfl
@[simp] theorem drive_buffer : (s.drive r).buffer = s.buffer := rfl
@[simp] theorem drive_result : (s.drive r).result = r := rfl
@[simp] theorem drive_inputs : (s.drive r).inputs = s.inputs := rfl
@[simp] theorem drive_resetCount : (s.drive r).resetCount = s.resetCount := rfl
@[simp] theorem drive_entryAt (i : Nat) : (s.drive r).entryAt i = s.entryAt i := rfl
end drive

section takeCycle
variable (s : State)
@[simp] theorem takeCycle_levelCurrent : s.takeCycle.levelCurrent = s.levelCurrent := rfl
@[simp] theorem takeCycle_levelPrevious : s.takeCycle.levelPrevious = s.levelPrevious := rfl
@[simp] theorem takeCycle_timeLastEdge : s.takeCycle.timeLastEdge = s.timeLastEdge := rfl
@[simp] theorem takeCycle_idle : s.takeCycle.idle = s.idle := rfl
@[simp] theorem takeCycle_fillIndex : s.takeCycle.fillIndex = s.fillIndex := rfl
@[simp] theorem takeCycle_ready : s.takeCycle.ready = s.ready := rfl
@[simp] theorem takeCycle_buffer : s.takeCycle.buffer = s.buffer := rfl
@[simp] theorem takeCycle_result : s.takeCycle.result = s.result := rfl
@[simp] theorem takeCycle_inputs : s.takeCycle.inputs = s.inputs.tail := rfl
@[simp] theorem takeCycle_resetCount : s.takeCycle.resetCount = s.resetCount := rfl
@[simp] theorem takeCycle_entryAt (i : Nat) : s.takeCycle.entryAt i = s.entryAt i := rfl
end takeCycle

section writeEntry
variable (s : State) (i : Nat) (v : Entry)
@[simp] theorem writeEntry_levelCurrent : (s.writeEntry i v).levelCurrent = s.levelCurrent := rfl
@[simp] theorem writeEntry_levelPrevious : (s.writeEntry i v).levelPrevious = s.levelPrevious := rfl
@[simp] theorem writeEntry_timeLastEdge : (s.writeEntry i v).timeLastEdge = s.timeLastEdge := rfl
@[simp] theorem writeEntry_idle : (s.writeEntry i v).idle = s.idle := rfl
@[simp] theorem writeEntry_fillIndex : (s.writeEntry i v).fillIndex = s.fillIndex := rfl
@[simp] theorem writeEntry_ready : (s.writeEntry i v).ready = s.ready := rfl
@[simp] theorem writeEntry_buffer : (s.writeEntry i v).buffer = Memory.write s.buffer i v := rfl
@[simp] theorem writeEntry_result : (s.writeEntry i v).result = s.result := rfl
@[simp] theorem writeEntry_inputs : (s.writeEntry i v).inputs = s.inputs := rfl
@[simp] theorem writeEntry_resetCount : (s.writeEntry i v).resetCount = s.resetCount := rfl
end writeEntry

section sample
variable (s : State) (pin : Level)
@[simp] theorem sample_levelCurrent : (s.sample pin).levelCurrent = pin := rfl
@[simp] theorem sample_levelPrevious : (s.sample pin).levelPrevious = s.levelPrevious := rfl
@[simp] theorem sample_timeLastEdge : (s.sample pin).timeLastEdge = s.timeLastEdge := rfl
@[simp] theorem sample_idle : (s.sample pin).idle = s.idle := rfl
@[simp] theorem sample_fillIndex : (s.sample pin).fillIndex = s.fillIndex := rfl
@[simp] theorem sample_ready : (s.sample pin).ready = s.ready := rfl
@[simp] theorem sample_buffer : (s.sample pin).buffer = s.buffer := rfl
@[simp] theorem sample_result : (s.sample pin).result = s.result := rfl
@[simp] theorem sample_inputs : (s.sample pin).inputs = s.inputs := rfl
@[simp] theorem sample_resetCount : (s.sample pin).resetCount = s.resetCount := rfl
@[simp] theorem sample_entryAt (k : Nat) : (s.sample pin).entryAt k = s.entryAt k := rfl
end sample

section passLevel
variable (s : State)
@[simp] theorem passLevel_levelCurrent : s.passLevel.levelCurrent = s.levelCurrent := rfl
@[simp] theorem passLevel_levelPrevious : s.passLevel.levelPrevious = s.levelCurrent := rfl
@[simp] theorem passLevel_timeLastEdge : s.passLevel.timeLastEdge = s.timeLastEdge := rfl
@[simp] theorem passLevel_idle : s.passLevel.idle = s.idle := rfl
@[simp] theorem passLevel_fillIndex : s.passLevel.fillIndex = s.fillIndex := rfl
@[simp] theorem passLevel_ready : s.passLevel.ready = s.ready := rfl
@[simp] theorem passLevel_buffer : s.passLevel.buffer = s.buffer := rfl
@[simp] theorem passLevel_result : s.passLevel.result = s.result := rfl
@[simp] theorem passLevel_inputs : s.passLevel.inputs = s.inputs := rfl
@[simp] theorem passLevel_resetCount : s.passLevel.resetCount = s.resetCount := rfl
@[simp] theorem passLevel_entryAt (k : Nat) : s.passLevel.entryAt k = s.entryAt k := rfl
end passLevel

section setTimeOrigin
variable (s : State) (now : Time)
@[simp] theorem setTimeOrigin_levelCurrent : (s.setTimeOrigin now).levelCurrent = s.levelCurrent := rfl
@[simp] theorem setTimeOrigin_levelPrevious : (s.setTimeOrigin now).levelPrevious = s.levelPrevious := rfl
@[simp] theorem setTimeOrigin_timeLastEdge : (s.setTimeOrigin now).timeLastEdge = now := rfl
@[simp] theorem setTimeOrigin_idle : (s.setTimeOrigin now).idle = s.idle := rfl
@[simp] theorem setTimeOrigin_fillIndex : (s.setTimeOrigin now).fillIndex = s.fillIndex := rfl
@[simp] theorem setTimeOrigin_ready : (s.setTimeOrigin now).ready = s.ready := rfl
@[simp] theorem setTimeOrigin_buffer : (s.setTimeOrigin now).buffer = s.buffer := rfl
@[simp] theorem setTimeOrigin_result : (s.setTimeOrigin now).result = s.result := rfl
@[simp] theorem setTimeOrigin_inputs : (s.setTimeOrigin now).inputs = s.inputs := rfl
@[simp] theorem setTimeOrigin_resetCount : (s.setTimeOrigin now).resetCount = s.resetCount := rfl
@[simp] theorem setTimeOrigin_entryAt (k : Nat) : (s.setTimeOrigin now).entryAt k = s.entryAt k := rfl
end setTimeOrigin

section setIdle
variable (s : State) (v : Bool)
@[simp] theorem setIdle_levelCurrent : (s.setIdle v).levelCurrent = s.levelCurrent := rfl
@[simp] theorem setIdle_levelPrevious : (s.setIdle v).levelPrevious = s.levelPrevious := rfl
@[simp] theorem setIdle_timeLastEdge : (s.setIdle v).timeLastEdge = s.timeLastEdge := rfl
@[simp] theorem setIdle_idle : (s.setIdle v).idle = v := rfl
@[simp] theorem setIdle_fillIndex : (s.setIdle v).fillIndex = s.fillIndex := rfl
@[simp] theorem setIdle_ready : (s.setIdle v).ready = s.ready := rfl
@[simp] theorem setIdle_buffer : (s.setIdle v).buffer = s.buffer := rfl
@[simp] theorem setIdle_result : (s.setIdle v).result = s.result := rfl
@[simp] theorem setIdle_inputs : (s.setIdle v).inputs = s.inputs := rfl
@[simp] theorem setIdle_resetCount : (s.setIdle v).resetCount = s.resetCount := rfl
@[simp] theorem setIdle_entryAt (k : Nat) : (s.setIdle v).entryAt k = s.entryAt k := rfl
end setIdle

section setFillIndex
variable (s : State) (v : FillIndex)
@[simp] theorem setFillIndex_levelCurrent : (s.setFillIndex v).levelCurrent = s.levelCurrent := rfl
@[simp] theorem setFillIndex_levelPrevious : (s.setFillIndex v).levelPrevious = s.levelPrevious := rfl
@[simp] theorem setFillIndex_timeLastEdge : (s.setFillIndex v).timeLastEdge = s.timeLastEdge := rfl
@[simp] theorem setFillIndex_idle : (s.setFillIndex v).idle = s.idle := rfl
@[simp] theorem setFillIndex_fillIndex : (s.setFillIndex v).fillIndex = v := rfl
@[simp] theorem setFillIndex_ready : (s.setFillIndex v).ready = s.ready := rfl
@[simp] theorem setFillIndex_buffer : (s.setFillIndex v).buffer = s.buffer := rfl
@[simp] theorem setFillIndex_result : (s.setFillIndex v).result = s.result := rfl
@[simp] theorem setFillIndex_inputs : (s.setFillIndex v).inputs = s.inputs := rfl
@[simp] theorem setFillIndex_resetCount : (s.setFillIndex v).resetCount = s.resetCount := rfl
@[simp] theorem setFillIndex_entryAt (k : Nat) : (s.setFillIndex v).entryAt k = s.entryAt k := rfl
end setFillIndex

section setReady
variable (s : State) (v : Bool)
@[simp] theorem setReady_levelCurrent : (s.setReady v).levelCurrent = s.levelCurrent := rfl
@[simp] theorem setReady_levelPrevious : (s.setReady v).levelPrevious = s.levelPrevious := rfl
@[simp] theorem setReady_timeLastEdge : (s.setReady v).timeLastEdge = s.timeLastEdge := rfl
@[simp] theorem setReady_idle : (s.setReady v).idle = s.idle := rfl
@[simp] theorem setReady_fillIndex : (s.setReady v).fillIndex = s.fillIndex := rfl
@[simp] theorem setReady_ready : (s.setReady v).ready = v := rfl
@[simp] theorem setReady_buffer : (s.setReady v).buffer = s.buffer := rfl
@[simp] theorem setReady_result : (s.setReady v).result = s.result := rfl
@[simp] theorem setReady_inputs : (s.setReady v).inputs = s.inputs := rfl
@[simp] theorem setReady_resetCount : (s.setReady v).resetCount = s.resetCount := rfl
@[simp] theorem setReady_entryAt (k : Nat) : (s.setReady v).entryAt k = s.entryAt k := rfl
end setReady

section hardwareReset
variable (s : State)
@[simp] theorem hardwareReset_levelCurrent : (hardwareReset s).levelCurrent = .low := rfl
@[simp] theorem hardwareReset_levelPrevious : (hardwareReset s).levelPrevious = .low := rfl
@[simp] theorem hardwareReset_timeLastEdge : (hardwareReset s).timeLastEdge = 0#32 := rfl
@[simp] theorem hardwareReset_idle : (hardwareReset s).idle = true := rfl
@[simp] theorem hardwareReset_fillIndex : (hardwareReset s).fillIndex = 0#7 := rfl
@[simp] theorem hardwareReset_ready : (hardwareReset s).ready = false := rfl
@[simp] theorem hardwareReset_buffer : (hardwareReset s).buffer = [] := rfl
@[simp] theorem hardwareReset_result : (hardwareReset s).result = 0#32 := rfl
@[simp] theorem hardwareReset_inputs : (hardwareReset s).inputs = s.inputs := rfl
@[simp] theorem hardwareReset_resetCount : (hardwareReset s).resetCount = s.resetCount + 1 := rfl
end hardwareReset

section withFetchWord
variable (s : State) (nbits w : Nat)
@[simp] theorem withFetchWord_inputs :
    (s.withFetchWord nbits w).inputs = Cycle.ofWord (BitVec.ofNat 36 (w % 2 ^ nbits)) :: s.inputs := rfl
@[simp] theorem withFetchWord_takeCycle : (s.withFetchWord nbits w).takeCycle = s := rfl
@[simp] theorem withFetchWord_currentCycle :
    (s.withFetchWord nbits w).currentCycle = Cycle.ofWord (BitVec.ofNat 36 (w % 2 ^ nbits)) := rfl
end withFetchWord

end Sys2Proof.Machine
end

