-- ==== Sys2Proof/Laws/Memory.lean ====
section
/-! SUPPORT. The laws of the duration buffer: read after write, every other entry left alone, the canonical form kept. -/

namespace Sys2Proof.Machine

theorem read_write_same (m : Memory) (i : Nat) (v : Entry) : Memory.read (Memory.write m i v) i = some v := by
  induction m with
  | nil => simp [Memory.write, Memory.read]
  | cons p m ih =>
    obtain ⟨j, u⟩ := p
    simp only [Memory.write]
    split
    · simp [Memory.read]
    · split
      · simp [Memory.read]
      · simp [Memory.read, *]

theorem read_write_other (m : Memory) {i k : Nat} (v : Entry) (h : k ≠ i) :
    Memory.read (Memory.write m i v) k = Memory.read m k := by
  induction m with
  | nil => simp [Memory.write, Memory.read, h]
  | cons p m ih =>
    obtain ⟨j, u⟩ := p
    simp only [Memory.write]
    split
    · simp [Memory.read, h]
    · split
      · subst_vars; simp [Memory.read, h]
      · simp [Memory.read, ih]

/-- A written entry, or one that was listed before. -/
theorem mem_write {m : Memory} {i : Nat} {v : Entry} {p : Nat × Entry} (h : p ∈ Memory.write m i v) :
    p = (i, v) ∨ p ∈ m := by
  induction m with
  | nil => simpa [Memory.write] using h
  | cons q m ih =>
    obtain ⟨j, u⟩ := q
    simp only [Memory.write] at h
    split at h
    · simpa using h
    · split at h
      · simp only [List.mem_cons] at h ⊢; tauto
      · simp only [List.mem_cons] at h ⊢
        rcases h with h | h
        · exact .inr (.inl h)
        · rcases ih h with h | h <;> tauto

theorem sorted_write {m : Memory} (i : Nat) (v : Entry) (h : m.Pairwise (fun p q => p.1 < q.1)) :
    (Memory.write m i v).Pairwise (fun p q => p.1 < q.1) := by
  induction m with
  | nil => simp [Memory.write]
  | cons q m ih =>
    obtain ⟨j, u⟩ := q
    obtain ⟨hj, hm⟩ := List.pairwise_cons.mp h
    simp only [Memory.write]
    split
    · rename_i hij
      refine List.pairwise_cons.mpr ⟨fun p hp => ?_, h⟩
      rcases List.mem_cons.mp hp with rfl | hp
      · exact hij
      · exact lt_trans hij (hj p hp)
    · split
      · subst_vars; exact List.pairwise_cons.mpr ⟨hj, hm⟩
      · refine List.pairwise_cons.mpr ⟨fun p hp => ?_, ih hm⟩
        rcases mem_write hp with rfl | hp
        · show j < i; omega
        · exact hj p hp

/-- The canonical form, as a proposition. -/
theorem wf_iff (m : Memory) :
    Memory.wf m = true ↔ m.Pairwise (fun p q => p.1 < q.1) ∧ ∀ p ∈ m, p.1 < cfg.capacity := by
  simp only [Memory.wf, Bool.and_eq_true, decide_eq_true_eq, List.all_eq_true]

/-- Every write of the block keeps the canonical form. -/
theorem wf_write {m : Memory} {i : Nat} (v : Entry) (h : Memory.wf m = true) (hi : i < cfg.capacity) :
    Memory.wf (Memory.write m i v) = true := by
  rw [wf_iff] at h ⊢
  refine ⟨sorted_write i v h.1, fun p hp => ?_⟩
  rcases mem_write hp with rfl | hp
  · exact hi
  · exact h.2 p hp

theorem read_mem {m : Memory} {i : Nat} {v : Entry} (h : Memory.read m i = some v) : (i, v) ∈ m := by
  induction m with
  | nil => simp [Memory.read] at h
  | cons p m ih =>
    obtain ⟨j, u⟩ := p
    simp only [Memory.read] at h
    split at h
    · simp_all
    · exact List.mem_cons_of_mem _ (ih h)

theorem wf_reset : Memory.wf State.reset.buffer = true := rfl

section entryAt
variable (s : State) (i k : Nat) (v : Entry)

@[simp] theorem entryAt_writeEntry_same : (s.writeEntry i v).entryAt i = v := by
  simp [State.entryAt, read_write_same]

theorem entryAt_writeEntry_other (h : k ≠ i) : (s.writeEntry i v).entryAt k = s.entryAt k := by
  simp [State.entryAt, read_write_other _ _ h]

/-- An entry that has been written reads as written, whatever the free values are. -/
theorem entryAt_of_read (h : Memory.read s.buffer i = some v) : s.entryAt i = v := by
  simp [State.entryAt, h]

end entryAt

end Sys2Proof.Machine
end

