-- ==== Sys2Proof/Laws/Ops.lean ====
section
/-! SUPPORT. For each shared operation one lemma that says everything it can do; for POLL and for a step, the cases. -/

namespace Sys2Proof.Machine

/-! ## The classifier -/

/-- The four classes and their conditions (41_poll.md R68). -/
theorem classify_cases (c : Config) (dt : Nat) (idle : Bool) :
    (classify c dt idle = .gap ∧ c.durationMax ≤ dt ∧ idle = false) ∨
    (classify c dt idle = .validPulse ∧ c.durationMin < dt ∧ dt < c.durationMax) ∨
    (classify c dt idle = .noise ∧ dt ≤ c.durationMin) ∨
    (classify c dt idle = .idleGap ∧ c.durationMax ≤ dt ∧ idle = true) := by
  unfold classify
  cases idle <;> split_ifs <;> simp_all

theorem classify_gap {c : Config} {dt : Nat} (h : c.durationMax ≤ dt) : classify c dt false = .gap := by
  simp [classify, h]

theorem classify_validPulse {c : Config} {dt : Nat} (idle : Bool) (h1 : c.durationMin < dt) (h2 : dt < c.durationMax) :
    classify c dt idle = .validPulse := by
  simp [classify, h1, h2, Nat.not_le.mpr h2]

theorem classify_noise {c : Config} {dt : Nat} (idle : Bool) (hc : c.durationMin < c.durationMax) (h : dt ≤ c.durationMin) :
    classify c dt idle = .noise := by
  have h1 : ¬ c.durationMax ≤ dt := by omega
  simp [classify, h, h1, Nat.not_lt.mpr h]

theorem classify_idleGap {c : Config} {dt : Nat} (hc : c.durationMin < c.durationMax) (h : c.durationMax ≤ dt) :
    classify c dt true = .idleGap := by
  have h1 : ¬ dt < c.durationMax := by omega
  have h2 : ¬ dt ≤ c.durationMin := by omega
  simp [classify, h1, h2]

/-! ## The stored entry -/

/-- The entry of a valid pulse is exact: its magnitude is `dt` (41_poll.md R61, R62, R72). -/
theorem magnitude_storedEntry {l : Level} {dt : Nat} (h : dt < cfg.durationMax) :
    magnitude (storedEntry cfg l dt) = dt := by
  have hs : saturate cfg dt = dt := saturate_of_lt_durationMax h
  simp only at h
  cases l <;>
    · simp only [magnitude, storedEntry, entryValue, hs, BitVec.toInt_ofInt]
      rw [Int.bmod_eq_of_le (by omega) (by omega)]
      omega

/-! ## The steps of POLL -/

/-- The append: the whole of it, or nothing (41_poll.md R64, R65). -/
theorem appendPulse_cases (c : Config) (s : State) (dt : Nat) :
    (s.fillIndex.toNat < c.capacity ∧ s.appendPulse c dt =
      (s.writeEntry s.fillIndex.toNat (storedEntry c s.levelCurrent dt)).setFillIndex (s.fillIndex + 1#7)) ∨
    (c.capacity ≤ s.fillIndex.toNat ∧ s.appendPulse c dt = s) := by
  unfold State.appendPulse
  split
  · exact .inl ⟨‹_›, rfl⟩
  · exact .inr ⟨by omega, rfl⟩

/-- The increment of `fill_index` does not overflow while there is room (41_poll.md R72). -/
theorem fillIndex_succ {f : FillIndex} (h : f.toNat < 66) : (f + 1#7).toNat = f.toNat + 1 := by
  simp only [BitVec.toNat_add, BitVec.toNat_ofNat]
  omega

section applyClass
variable (c : Config) (s : State) (dt : Nat) (k : EdgeClass)
@[simp] theorem appendPulse_levelCurrent : (s.appendPulse c dt).levelCurrent = s.levelCurrent := by
  rcases appendPulse_cases c s dt with ⟨_, h⟩ | ⟨_, h⟩ <;> simp [h]
@[simp] theorem appendPulse_levelPrevious : (s.appendPulse c dt).levelPrevious = s.levelPrevious := by
  rcases appendPulse_cases c s dt with ⟨_, h⟩ | ⟨_, h⟩ <;> simp [h]
@[simp] theorem appendPulse_timeLastEdge : (s.appendPulse c dt).timeLastEdge = s.timeLastEdge := by
  rcases appendPulse_cases c s dt with ⟨_, h⟩ | ⟨_, h⟩ <;> simp [h]
@[simp] theorem appendPulse_ready : (s.appendPulse c dt).ready = s.ready := by
  rcases appendPulse_cases c s dt with ⟨_, h⟩ | ⟨_, h⟩ <;> simp [h]
@[simp] theorem appendPulse_result : (s.appendPulse c dt).result = s.result := by
  rcases appendPulse_cases c s dt with ⟨_, h⟩ | ⟨_, h⟩ <;> simp [h]
@[simp] theorem appendPulse_inputs : (s.appendPulse c dt).inputs = s.inputs := by
  rcases appendPulse_cases c s dt with ⟨_, h⟩ | ⟨_, h⟩ <;> simp [h]
@[simp] theorem appendPulse_resetCount : (s.appendPulse c dt).resetCount = s.resetCount := by
  rcases appendPulse_cases c s dt with ⟨_, h⟩ | ⟨_, h⟩ <;> simp [h]
@[simp] theorem appendPulse_idle : (s.appendPulse c dt).idle = s.idle := by
  rcases appendPulse_cases c s dt with ⟨_, h⟩ | ⟨_, h⟩ <;> simp [h]
@[simp] theorem applyClass_levelCurrent : (s.applyClass c dt k).levelCurrent = s.levelCurrent := by cases k <;> simp [State.applyClass]
@[simp] theorem applyClass_levelPrevious : (s.applyClass c dt k).levelPrevious = s.levelPrevious := by cases k <;> simp [State.applyClass]
@[simp] theorem applyClass_timeLastEdge : (s.applyClass c dt k).timeLastEdge = s.timeLastEdge := by cases k <;> simp [State.applyClass]
@[simp] theorem applyClass_ready : (s.applyClass c dt k).ready = s.ready := by cases k <;> simp [State.applyClass]
@[simp] theorem applyClass_result : (s.applyClass c dt k).result = s.result := by cases k <;> simp [State.applyClass]
@[simp] theorem applyClass_inputs : (s.applyClass c dt k).inputs = s.inputs := by cases k <;> simp [State.applyClass]
@[simp] theorem applyClass_resetCount : (s.applyClass c dt k).resetCount = s.resetCount := by cases k <;> simp [State.applyClass]
end applyClass

section latchReady
variable (c : Config) (s : State)
@[simp] theorem latchReady_levelCurrent : (s.latchReady c).levelCurrent = s.levelCurrent := by
  unfold State.latchReady; split <;> rfl
@[simp] theorem latchReady_levelPrevious : (s.latchReady c).levelPrevious = s.levelPrevious := by
  unfold State.latchReady; split <;> rfl
@[simp] theorem latchReady_timeLastEdge : (s.latchReady c).timeLastEdge = s.timeLastEdge := by
  unfold State.latchReady; split <;> rfl
@[simp] theorem latchReady_idle : (s.latchReady c).idle = s.idle := by
  unfold State.latchReady; split <;> rfl
@[simp] theorem latchReady_fillIndex : (s.latchReady c).fillIndex = s.fillIndex := by
  unfold State.latchReady; split <;> rfl
@[simp] theorem latchReady_buffer : (s.latchReady c).buffer = s.buffer := by
  unfold State.latchReady; split <;> rfl
@[simp] theorem latchReady_result : (s.latchReady c).result = s.result := by
  unfold State.latchReady; split <;> rfl
@[simp] theorem latchReady_inputs : (s.latchReady c).inputs = s.inputs := by
  unfold State.latchReady; split <;> rfl
@[simp] theorem latchReady_resetCount : (s.latchReady c).resetCount = s.resetCount := by
  unfold State.latchReady; split <;> rfl
@[simp] theorem latchReady_entryAt (k : Nat) : (s.latchReady c).entryAt k = s.entryAt k := by
  unfold State.latchReady; split <;> rfl
/-- The ready latch: set on equality, otherwise left (41_poll.md R70). -/
@[simp] theorem latchReady_ready_iff : (s.latchReady c).ready = true ↔ s.ready = true ∨ s.fillIndex.toNat = c.capacity := by
  unfold State.latchReady
  split <;> simp_all
theorem latchReady_of_eq (h : s.fillIndex.toNat = c.capacity) : s.latchReady c = s.setReady true := if_pos h
theorem latchReady_of_ne (h : s.fillIndex.toNat ≠ c.capacity) : s.latchReady c = s := if_neg h
end latchReady

/-- The three ways of POLL: inert, no edge, edge (41_poll.md R57, R59, R73). -/
theorem pollNext_cases (c : Config) (pin : Level) (now : Time) (s : State) :
    (s.ready = true ∧ pollNext c pin now s = s) ∨
    (s.ready = false ∧ pin = s.levelPrevious ∧ pollNext c pin now s = (s.sample pin).passLevel) ∨
    (s.ready = false ∧ pin ≠ s.levelPrevious ∧ pollNext c pin now s = pollEdge c now (s.sample pin)) := by
  unfold pollNext pollSample
  cases h : s.ready <;> by_cases hp : pin = s.levelPrevious <;> simp [hp]

/-- The edge that abandons a capture (41_poll.md R63). -/
theorem pollEdge_gap {c : Config} {now : Time} {s : State} (hi : s.idle = false)
    (h : c.durationMax ≤ elapsed c now.toNat s.timeLastEdge.toNat) :
    pollEdge c now s = State.latchReady c ((((s.setIdle true).setFillIndex 0#7).setTimeOrigin now).passLevel) := by
  simp only [pollEdge, hi, classify_gap h, State.applyClass]

/-- The edge of a valid pulse (41_poll.md R64). -/
theorem pollEdge_validPulse {c : Config} {now : Time} {s : State}
    (h1 : c.durationMin < elapsed c now.toNat s.timeLastEdge.toNat)
    (h2 : elapsed c now.toNat s.timeLastEdge.toNat < c.durationMax) :
    pollEdge c now s = State.latchReady c
      ((((s.setIdle false).appendPulse c (elapsed c now.toNat s.timeLastEdge.toNat)).setTimeOrigin now).passLevel) := by
  simp only [pollEdge, classify_validPulse s.idle h1 h2, State.applyClass]

/-- The ignored edges (41_poll.md R66, R67). -/
theorem pollEdge_ignored {c : Config} {now : Time} {s : State} (hc : c.durationMin < c.durationMax)
    (h : elapsed c now.toNat s.timeLastEdge.toNat ≤ c.durationMin ∨
      (c.durationMax ≤ elapsed c now.toNat s.timeLastEdge.toNat ∧ s.idle = true)) :
    pollEdge c now s = State.latchReady c ((s.setTimeOrigin now).passLevel) := by
  rcases h with h | ⟨h, hi⟩
  · simp only [pollEdge, classify_noise s.idle hc h, State.applyClass]
  · simp only [pollEdge, hi, classify_idleGap hc h, State.applyClass]

/-! ## Commands and cycles -/

section exec
variable (s : State) (pin : Level) (now : Time)
@[simp] theorem exec_nop : exec .nop s = .next (s.drive 0#32) := rfl
@[simp] theorem exec_init : exec (.init pin) s = .next ((s.sample pin).passLevel.drive 0#32) := rfl
@[simp] theorem exec_poll : exec (.poll pin now) s = .next ((pollNext cfg pin now s).drive 0#32) := rfl
@[simp] theorem exec_isReady : exec .isReady s = .next (s.drive ((BitVec.ofBool s.ready).setWidth 32)) := rfl
@[simp] theorem exec_decode : exec .decode s = .next (s.drive (BitVec.ofNat 32 (s.decoded cfg))) := rfl
@[simp] theorem exec_reset : exec .reset s =
    .next ((((s.setReady false).setFillIndex 0#7).setIdle true).drive 0#32) := rfl
@[simp] theorem exec_reserved110 : exec .reserved110 s = .next (s.drive 0#32) := rfl
@[simp] theorem exec_reserved111 : exec .reserved111 s = .next (s.drive 0#32) := rfl
end exec

/-- A cycle is a hardware reset or a beat (30_encoding.md R43, R53). -/
theorem step_cases (s : State) :
    (s.currentCycle.rst = true ∧ step s = .next (hardwareReset s.takeCycle)) ∨
    (s.currentCycle.rst = false ∧
      step s = exec (decodeBeat s.currentCycle.op s.currentCycle.pinLevel s.currentCycle.now) s.takeCycle) := by
  unfold step
  cases h : s.currentCycle.rst <;> simp

@[simp] theorem run_zero (s : State) : run 0 s = .next s := rfl

theorem run_succ {s t : State} (n : Nat) (h : step s = .next t) : run (n + 1) s = run n t := by
  rw [run, h]

theorem core_run_next {M : Host.Core} {n : Nat} {s t : M.State} (h : M.step s = .next t) : M.run (n + 1) s = M.run n t := by
  rw [Host.Core.run, h]

theorem core_run_refused {M : Host.Core} {n : Nat} {s : M.State} {r : M.Refusal} (h : M.step s = .refused r) :
    M.run (n + 1) s = .refused r := by
  rw [Host.Core.run, h]

/-- The run of the host's interface is the run claims are stated with. -/
theorem core_run_eq_run (n : Nat) (s : State) : Host.Core.run core n s = run n s := by
  induction n generalizing s with
  | zero => rfl
  | succ n ih =>
    unfold run
    cases h : step s with
    | next t => exact (core_run_next (M := core) h).trans (ih t)
    | fault r => exact nomatch r
    | refused r => exact core_run_refused (M := core) h

end Sys2Proof.Machine
end

