-- ==== Sys2Proof/Laws/PerInstr.lean ====
section
/-! SUPPORT. Facts about every command as syntax, one lemma per constructor: its beat word carries its code in bits 35:33
and 0 in every field it does not use (30_encoding.md R44, R47). -/

namespace Sys2Proof.Laws.EncodeCanonical

/-- The beat word of the command carries its code and is canonical. -/
def Statement (i : Instr) : Prop := wordOp (encode i) = i.opBits ∧ canonicalWord (encode i)

theorem nop : Statement .nop := by simp only [Statement]; decide
theorem init (pin : Level) : Statement (.init pin) := by simp only [Statement]; cases pin <;> decide
theorem poll (pin : Level) (now : Time) : Statement (.poll pin now) := by
  refine ⟨wordOp_encode _, ?_⟩
  rw [canonicalWord, wordOp_encode]
  exact BitVec.and_allOnes
theorem isReady : Statement .isReady := by simp only [Statement]; decide
theorem decode : Statement .decode := by simp only [Statement]; decide
theorem reset : Statement .reset := by simp only [Statement]; decide
theorem reserved110 : Statement .reserved110 := by simp only [Statement]; decide
theorem reserved111 : Statement .reserved111 := by simp only [Statement]; decide

end Sys2Proof.Laws.EncodeCanonical
end

