-- ==== Sys2Proof/Tests/Slice0.lean ====
section
/-! SUPPORT. The model's own tests. Every expected value is one of spec/95_test_vectors.md or of a rule's worked example
(named in the docstring), and the witnesses show that the hypotheses of each statement can be met together. -/

namespace Sys2Proof.Tests

set_option Elab.async false

open Sys2Proof Sys2Proof.Machine

/-! ## Helpers -/

/-- A state in the notation of 95_test_vectors.md: `lc lp tle idle fill ready`, and the buffer. -/
def st (lc lp : Level) (tle : Nat) (idle : Bool) (fill : Nat) (ready : Bool) (buffer : Memory := []) : State :=
  { State.reset with
    levelCurrent := lc, levelPrevious := lp, timeLastEdge := BitVec.ofNat 32 tle, idle := idle,
    fillIndex := BitVec.ofNat 7 fill, ready := ready, buffer := buffer }

/-- The first `n` entries of a pattern, as written one after the other. -/
def entries (n : Nat) (pattern : Nat → Int) : Memory := (List.range n).map fun i => (i, BitVec.ofInt 16 (pattern i))

/-- Even indices hold `a`, odd indices hold `b`. -/
def alternating (a b : Int) (i : Nat) : Int := if i % 2 = 0 then a else b

/-- A full, Ready block. -/
def full (pattern : Nat → Int) : State := st .low .low 117420 false 66 true (entries 66 pattern)

/-- A capture of `n` entries in progress. -/
def capturing (n : Nat) : State := st .low .low 100000 false n false (entries n (alternating 500 (-1600)))

/-- What a rising edge of `dt` microseconds makes of `capturing 65`. -/
def filled (dt : Nat) : State :=
  st .high .high (100000 + dt) false 66 true (entries 65 (alternating 500 (-1600)) ++ [(65, BitVec.ofNat 16 dt)])

/-- The state after an outcome, if it is a next state. -/
def after : Host.Outcome State Fault Refusal → Option State
  | .next t => some t
  | .fault _ => none
  | .refused _ => none

theorem eq_next_of_after {o : Host.Outcome State Fault Refusal} {t : State} (h : after o = some t) : o = .next t := by
  cases o <;> simp_all [after]

/-- The beat of a written-out word, through fetch and decoder. -/
def beat (w : Nat) (s : State) : Option State := after (step (s.withFetchWord 36 w))

/-- The state with these cycles presented next. -/
def presenting (s : State) (cs : List Cycle) : State := { s with inputs := cs }

/-! ## Well-formedness: each check refuses an ill-formed term -/

theorem test_default_configuration_is_legal : cfg.legal := by decide

/-- 00_scope.md R5: `DURATION_MIN < DURATION_MAX`, and `DURATION_MAX < 2^TW`. -/
theorem test_thresholds_refused :
    ¬ ({ durationMin := 10000 } : Config).legal ∧ ¬ ({ tw := 13 } : Config).legal := by decide

/-- 00_scope.md R5: `CAPACITY >= DECODE_START + 1` and `DECODE_START >= 1`. -/
theorem test_decode_range_refused :
    ¬ ({ decodeStart := 66 } : Config).legal ∧ ¬ ({ decodeStart := 0 } : Config).legal := by decide

/-- 00_scope.md R5: `CAPACITY < 2^FW`, `DW >= 2`, `CW >= 1`. -/
theorem test_widths_refused :
    ¬ ({ fw := 6 } : Config).legal ∧ ¬ ({ dw := 1 } : Config).legal ∧ ¬ ({ cw := 0 } : Config).legal := by decide

/-- Log entry 16. -/
theorem test_stride_refused : ¬ ({ decodeStride := 0 } : Config).legal := by decide

/-- 30_encoding.md R48: the reserved codes are not assigned. -/
theorem test_reserved_not_assigned :
    Instr.reserved110.assigned = false ∧ Instr.reserved111.assigned = false ∧ Instr.decode.assigned = true := by decide

/-- 95_test_vectors.md I5: `0x300003039` is a non-canonical word of INIT. -/
theorem test_canonical_word_refused :
    ¬ canonicalWord 0x300003039#36 ∧ canonicalWord 0x300000000#36 ∧ decodeWord 0x300003039#36 = .init .high := by decide

/-- 30_encoding.md R50: which command takes which operand, and the width of `now`. -/
theorem test_lines_refused :
    (Line.beat .reset (some .high) none).wellFormed = false ∧ (Line.beat .init none (some 5)).wellFormed = false ∧
      (Line.beat .poll none (some 4294967296)).wellFormed = false ∧
      (Line.beat .poll (some .high) (some 4294967295)).wellFormed = true := by decide

/-- A number with a bit above bit 35 is no beat word. -/
theorem test_decode_refuses_long_number : decode 0x1000000000 = .error (.notABeatWord 0x1000000000) := by decide

/-! ## Decoding: words written out from 30_encoding.md R44, R47 and from 95_test_vectors.md -/

theorem test_decode_nop : decode 0x000000000 = .ok .nop := by decide
theorem test_decode_init : decode 0x300000000 = .ok (.init .high) ∧ decode 0x200000000 = .ok (.init .low) := by decide
theorem test_decode_poll :
    decode 0x5000003E8 = .ok (.poll .high 1000#32) ∧ decode 0x400004E20 = .ok (.poll .low 20000#32) := by decide
theorem test_decode_poll_bits : decodeWord
    (0b010#3 ++ 0b1#1 ++ 0b11101110011010110010100000000000#32) = .poll .high 4000000000#32 := by decide
theorem test_decode_isReady : decode 0x600000000 = .ok .isReady := by decide
theorem test_decode_decode : decode 0x800000000 = .ok .decode := by decide
theorem test_decode_reset : decode 0xA00000000 = .ok .reset := by decide
theorem test_decode_reserved110 : decode 0xC00000000 = .ok .reserved110 := by decide
theorem test_decode_reserved111 : decode 0xE00000000 = .ok .reserved111 := by decide
theorem test_decodeTableWord : decodeTableWord 36 0x5EE6B2800 = some (.poll .high 4000000000#32) := by decide
theorem test_encode : encode (.poll .high 100401#32) = 0x500018831#36 ∧ encode (.init .low) = 0x200000000#36 := by decide

/-! ## Written lines (30_encoding.md R50, R51) -/

theorem test_parse_poll : parseLine "POLL pin=H now=0x3E8 ; a comment".toList =
    .ok (some (.beat .poll (some .high) (some 1000))) := by decide
theorem test_parse_pseudo : parseLine "DRAIN".toList = .ok (some .drain) ∧ parseLine "IDLE 12".toList = .ok (some (.idle 12)) := by
  decide
theorem test_parse_refused : parseLine "FETCH".toList = .error .unknownMnemonic ∧
    parseLine "POLL pin=X".toList = .error .badOperands ∧ parseLine "IDLE".toList = .error .badOperands ∧
    parseLine "DRAIN 2".toList = .error .badOperands := by decide
theorem test_line_words : (Line.beat .poll (some .low) (some 20000)).words = [0x400004E20#36] ∧
    Line.drain.words = [0x800000000#36, 0xA00000000#36] ∧ (Line.idle 2).words = [0#36, 0#36] := by decide

/-! ## INIT -/

/-- 95_test_vectors.md I1. -/
theorem test_init_after_reset : beat 0x300000000 State.reset = some (st .high .high 0 true 0 false) := by decide

/-- 95_test_vectors.md I3: the capture is not aborted. -/
theorem test_init_while_capturing :
    beat 0x200000000 (st .high .high 100000 false 10 false) = some (st .low .low 100000 false 10 false) := by decide

/-! ## POLL -/

/-- 95_test_vectors.md V12: a falling edge; the sign is negative, the word stored is 0xFDD0. -/
theorem test_poll_falling_edge : beat 0x4000188D0 (st .high .high 100000 false 10 false) =
    some (st .low .low 100560 false 11 false [(10, 0xFDD0#16)]) := by decide

/-- 95_test_vectors.md V20: the modular difference across a wrap of the clock. -/
theorem test_poll_wrapped_clock : beat 0x500000100 (st .low .low 4294967040 false 10 false) =
    some (st .high .high 256 false 11 false [(10, 512#16)]) := by decide

/-! ### The classes and the entry's value at their boundaries (95_test_vectors.md V1 to V11, V20 to V29) -/

theorem test_classes_while_capturing :
    classify cfg 400 false = .noise ∧ classify cfg 401 false = .validPulse ∧ classify cfg 9999 false = .validPulse ∧
      classify cfg 10000 false = .gap ∧ classify cfg 0 false = .noise := by decide
theorem test_classes_while_idle :
    classify cfg 400 true = .noise ∧ classify cfg 401 true = .validPulse ∧ classify cfg 9999 true = .validPulse ∧
      classify cfg 10000 true = .idleGap ∧ classify cfg 3999900000 true = .idleGap := by decide
theorem test_elapsed_modular :
    elapsed cfg 256 4294967040 = 512 ∧ elapsed cfg 99999 100000 = 4294967295 ∧ elapsed cfg 100560 100000 = 560 := by decide

/-- V23 to V26: `DW = 12`. -/
theorem test_saturation_dw12 :
    entryValue { dw := 12 } .high 5000 = 2047 ∧ entryValue { dw := 12 } .low 5000 = -2047 ∧
      entryValue { dw := 12 } .high 2047 = 2047 ∧ entryValue { dw := 12 } .high 2048 = 2047 ∧
      BitVec.ofInt 12 (entryValue { dw := 12 } .low 5000) = 0x801#12 := by decide

/-- V27 to V29: `DURATION_MAX = 50000`; `0x8000` is never stored. -/
theorem test_saturation_long_pulses :
    storedEntry { durationMax := 50000 } .high 40000 = 0x7FFF#16 ∧
      storedEntry { durationMax := 50000 } .low 32767 = 0x8001#16 ∧
      storedEntry { durationMax := 50000 } .low 32768 = 0x8001#16 ∧
      classify { durationMax := 50000 } 40000 false = .validPulse := by decide

/-! ## IS_READY and DECODE -/

/-- 95_test_vectors.md IR1. -/
theorem test_isReady_not_ready :
    beat 0x600000000 (st .low .low 0 false 65 false) = some (st .low .low 0 false 65 false) := by decide

/-- 95_test_vectors.md IR2. -/
theorem test_isReady_ready :
    beat 0x600000000 (st .low .low 0 false 66 true) = some { st .low .low 0 false 66 true with result := 1#32 } := by decide

/-- 95_test_vectors.md Q10: the first pair is bit 31. -/
theorem test_decode_first_pair :
    (beat 0x800000000 (full fun i => if i = 3 then -1600 else alternating 500 (-500) i)).map State.result =
      some 0x80000000#32 := by decide +kernel

/-- 95_test_vectors.md Q12: bit order. -/
theorem test_decode_alternating_pairs :
    (beat 0x800000000 (full fun i => if i % 2 = 0 then 560 else if i % 4 = 3 then -1690 else -560)).map State.result =
      some 0xAAAAAAAA#32 := by decide +kernel

/-! ### The comparator and the walk on magnitudes (95_test_vectors.md Q1 to Q17, Q19 and the result-width vector) -/

/-- Q3, Q4, Q5, Q6, Q14 to Q17: the strict comparison at its boundary. -/
theorem test_comparator_boundaries :
    pairBit cfg 500 750 = false ∧ pairBit cfg 500 751 = true ∧ pairBit cfg 501 751 = false ∧ pairBit cfg 501 752 = true ∧
      pairBit cfg 6665 9999 = true ∧ pairBit cfg 6666 9999 = false ∧ pairBit cfg 401 602 = true ∧
      pairBit cfg 401 601 = false := by decide

/-- The magnitudes of the buffer of program P3 at its even (560) and odd indices, from index 2 on (95_test_vectors.md). -/
def frameP3 (i : Nat) : Nat :=
  if i % 2 = 0 then 560
  else if i ∈ [19, 21, 23, 25, 27, 29, 31, 33, 37, 39, 47, 51, 57, 59, 61, 65] then 1690 else 560

/-- Q19, and the same buffer with `CW = 16` and `CW = 40`. -/
theorem test_walk_result_width :
    decodeWalk cfg frameP3 = 0x00FF629D ∧ decodeWalk { cw := 16 } frameP3 = 0x629D ∧
      decodeWalk { cw := 40 } frameP3 = 0x00FF629D := by decide +kernel

/-! ## RESET, NOP, the reserved codes -/

/-- 95_test_vectors.md, program P3 beat 74; every entry stays. -/
theorem test_reset_rearms : beat 0xA00000000 (st .low .low 117420 false 66 true [(0, 5#16)]) =
    some (st .low .low 117420 true 0 false [(0, 5#16)]) := by decide

/-- 43_rearm.md R86. -/
theorem test_nop : beat 0x000000000 { st .low .high 5 false 9 false with result := 7#32 } =
    some (st .low .high 5 false 9 false) := by decide

/-- 30_encoding.md R48. -/
theorem test_reserved : beat 0xC00000000 { st .low .high 5 false 9 false with result := 7#32 } =
    some (st .low .high 5 false 9 false) ∧
    beat 0xE00000000 { st .low .high 5 false 9 false with result := 7#32 } = some (st .low .high 5 false 9 false) := by decide

/-- 30_encoding.md R53: the reset wins over the command. -/
theorem test_hardware_reset : after (step (presenting (capturing 1) [⟨true, 0b010#3, .high, 100500#32⟩])) =
    some { State.reset with resetCount := 1 } := by decide

/-- Log entry 2. -/
theorem test_undriven_cycle : after (step State.reset) = some State.reset := by decide

/-! ## States that meet the invariant -/

theorem reset_inv : State.reset.Inv := by constructor <;> decide
theorem capturing_inv_1 : (capturing 1).Inv := by constructor <;> decide
theorem capturing_inv_64 : (capturing 64).Inv := by constructor <;> decide +kernel
theorem capturing_inv_65 : (capturing 65).Inv := by constructor <;> decide +kernel
theorem full_inv : (full (alternating 500 (-1600))).Inv := by constructor <;> decide +kernel
theorem full_short_inv : (full (alternating 500 (-500))).Inv := by constructor <;> decide +kernel

/-! ## Witnesses: the hypotheses of each statement met together, at boundary values -/

theorem witness_StimulusLinesStandForTheirBeats :
    (Line.beat .poll (some .high) (some 4294967295)).wellFormed = true ∧ (Line.beat .init none none).wellFormed = true ∧
      (Line.beat .nop none none).wellFormed = true := by decide

theorem witness_StepRunsThePresentedCommand :
    (presenting State.reset [⟨false, 0b010#3, .high, 1000#32⟩]).inputs = ⟨false, 0b010#3, .high, 1000#32⟩ :: [] ∧
      decodeTableWord 36 0x5000003E8 = some (.poll .high 1000#32) ∧
      decodeTableWord 36 0xE00000000 = some .reserved111 := by decide

theorem witness_UndrivenCycleIsNop : State.reset.inputs = [] := rfl

theorem witness_HardwareResetForcesResetValues :
    (presenting (capturing 1) [⟨true, 0b101#3, .high, 7#32⟩]).inputs = ⟨true, 0b101#3, .high, 7#32⟩ :: [] := rfl

/-- The step that fills the buffer. -/
theorem witness_EveryStepKeepsTheInvariant :
    (presenting (capturing 65) [⟨false, 0b010#3, .high, 100401#32⟩]).Inv ∧
      step (presenting (capturing 65) [⟨false, 0b010#3, .high, 100401#32⟩]) = .next (filled 401) :=
  ⟨by constructor <;> decide +kernel, eq_next_of_after (by decide +kernel)⟩

theorem witness_ExactlyOnePhase :
    State.reset.Inv ∧ (capturing 1).Inv ∧ (full (alternating 500 (-1600))).Inv ∧
      (full (alternating 500 (-1600))).inPhase .ready := by
  exact ⟨reset_inv, capturing_inv_1, full_inv, by decide⟩

/-- Idle to Capturing with the shortest valid pulse. -/
theorem witness_PhaseChangesOnlyAsTheTableSays_start :
    let t := st .high .high 401 false 1 false [(0, 401#16)]
    State.reset.Inv ∧ exec (.poll .high 401#32) State.reset = .next t ∧ State.reset.inPhase .idle ∧ t.inPhase .capturing :=
  ⟨reset_inv, eq_next_of_after (by decide), by decide, by decide⟩

/-- Capturing to Idle by the shortest gap. -/
theorem witness_PhaseChangesOnlyAsTheTableSays_gap :
    let t := st .high .high 110000 true 0 false [(0, 500#16)]
    (capturing 1).Inv ∧ exec (.poll .high 110000#32) (capturing 1) = .next t ∧ (capturing 1).inPhase .capturing ∧
      t.inPhase .idle :=
  ⟨capturing_inv_1, eq_next_of_after (by decide), by decide, by decide⟩

/-- Capturing to Idle by RESET. -/
theorem witness_PhaseChangesOnlyAsTheTableSays_abort :
    let t := st .low .low 100000 true 0 false [(0, 500#16)]
    (capturing 1).Inv ∧ exec .reset (capturing 1) = .next t ∧ (capturing 1).inPhase .capturing ∧ t.inPhase .idle :=
  ⟨capturing_inv_1, eq_next_of_after (by decide), by decide, by decide⟩

/-- Capturing to Ready with the longest valid pulse. -/
theorem witness_PhaseChangesOnlyAsTheTableSays_fill :
    (capturing 65).Inv ∧ exec (.poll .high 109999#32) (capturing 65) = .next (filled 9999) ∧
      (capturing 65).inPhase .capturing ∧ (filled 9999).inPhase .ready :=
  ⟨capturing_inv_65, eq_next_of_after (by decide +kernel), by decide, by decide⟩

/-- Ready to Idle. -/
theorem witness_PhaseChangesOnlyAsTheTableSays_rearm :
    let s := full (alternating 500 (-1600))
    let t := st .low .low 117420 true 0 false (entries 66 (alternating 500 (-1600)))
    s.Inv ∧ exec .reset s = .next t ∧ s.inPhase .ready ∧ t.inPhase .idle :=
  ⟨full_inv, eq_next_of_after (by decide +kernel), by decide, by decide⟩

theorem witness_ReadyIsClearedOnlyByReset :
    let s := st .low .low 5 false 66 true
    s.ready = true ∧
      ((after (step (presenting s [⟨true, 0#3, .low, 0#32⟩]))).map State.ready = some false) ∧
      ((after (step (presenting s [⟨false, 0b101#3, .low, 0#32⟩]))).map State.ready = some false) := by decide

/-- The three outcomes: an advance to 66, a gap, RESET, and a value above the capacity that stays. -/
theorem witness_FillIndexStaysAdvancesByOneOrClears :
    ((beat 0x5000188D0 (st .low .low 100000 false 65 false)).map State.fillIndex = some 66#7) ∧
      ((beat 0x50001D4C0 (st .low .low 100000 false 65 false)).map State.fillIndex = some 0#7) ∧
      ((beat 0xA00000000 (st .low .low 100000 false 127 false)).map State.fillIndex = some 0#7) ∧
      ((beat 0x5000188D0 (st .low .low 100000 false 127 false)).map State.fillIndex = some 127#7) := by decide

/-- 95_test_vectors.md V17. -/
theorem witness_PollWhileReadyIsInert : (st .low .low 100000 false 66 true).ready = true := rfl

/-- 95_test_vectors.md V13. -/
theorem witness_PollWithoutEdgeOnlySamples :
    (st .low .low 100000 false 10 false).ready = false ∧ Level.low = (st .low .low 100000 false 10 false).levelPrevious := by
  decide

/-- Both an edge and no edge. -/
theorem witness_LevelsFollowTheSample :
    (capturing 1).ready = false ∧ Level.high ≠ (capturing 1).levelPrevious ∧ Level.low = (capturing 1).levelPrevious := by decide

theorem witness_ElapsedTimeIsTheModularDifference :
    (100000#32).toNat ≤ (100000#32).toNat ∧ (0#32).toNat ≤ (4294967295#32).toNat := by decide

theorem witness_EdgeClassesAreDisjointAndCover : cfg.legal ∧ ({ durationMin := 0, durationMax := 1 } : Config).legal := by decide

theorem witness_EntryValueIsSaturatedAndExact : cfg.legal ∧ ({ dw := 2 } : Config).legal := by decide

/-- 95_test_vectors.md V4 and V21. -/
theorem witness_GapAbandonsTheCapture :
    let s := st .low .low 100000 false 10 false
    s.ready = false ∧ Level.high ≠ s.levelPrevious ∧ s.idle = false ∧
      10000 ≤ elapsed cfg (110000#32).toNat s.timeLastEdge.toNat ∧
      10000 ≤ elapsed cfg (99999#32).toNat s.timeLastEdge.toNat := by decide

/-- 95_test_vectors.md V1 and V5, V10; and the unreachable `fill_index = 66`. -/
theorem witness_IgnoredEdgeMovesOnlyTimeAndLevels :
    let s := st .low .low 100000 false 10 false
    let u := st .low .low 100000 true 66 false
    s.ready = false ∧ Level.high ≠ s.levelPrevious ∧ elapsed cfg (100400#32).toNat s.timeLastEdge.toNat ≤ 400 ∧
      elapsed cfg (100000#32).toNat s.timeLastEdge.toNat ≤ 400 ∧ u.ready = false ∧ Level.high ≠ u.levelPrevious ∧
      10000 ≤ elapsed cfg (110000#32).toNat u.timeLastEdge.toNat ∧ u.idle = true := by decide

/-- 95_test_vectors.md V2, V3 and V14: the shortest and the longest pulse, and the last entry. -/
theorem witness_ValidPulseAppendsOneEntry :
    let s := st .low .low 100000 false 10 false
    let u := st .low .low 100000 false 65 false
    s.ready = false ∧ Level.high ≠ s.levelPrevious ∧ 400 < elapsed cfg (100401#32).toNat s.timeLastEdge.toNat ∧
      elapsed cfg (109999#32).toNat s.timeLastEdge.toNat < 10000 ∧ s.fillIndex.toNat < 66 ∧ u.ready = false ∧
      Level.high ≠ u.levelPrevious ∧ 400 < elapsed cfg (100560#32).toNat u.timeLastEdge.toNat ∧
      elapsed cfg (100560#32).toNat u.timeLastEdge.toNat < 10000 ∧ u.fillIndex.toNat = 65 := by decide

/-- 95_test_vectors.md V18 and V19. -/
theorem witness_ValidPulseWithoutRoomIsDropped :
    let s := st .low .low 100000 false 66 false
    let u := st .low .low 100000 false 70 false
    s.ready = false ∧ Level.high ≠ s.levelPrevious ∧ 400 < elapsed cfg (100560#32).toNat s.timeLastEdge.toNat ∧
      elapsed cfg (100560#32).toNat s.timeLastEdge.toNat < 10000 ∧ 66 ≤ s.fillIndex.toNat ∧ 66 ≤ u.fillIndex.toNat ∧
      u.ready = false := by decide

/-- Each clause: an edge that latches and one that does not, no edge, a Ready state. -/
theorem witness_ReadyLatchesExactlyAtCapacity :
    ((beat 0x5000188D0 (st .low .low 100000 false 65 false)).map State.ready = some true) ∧
      ((beat 0x5000187CC (st .low .low 100000 false 65 false)).map State.ready = some false) ∧
      ((beat 0x4000188D0 (st .low .low 100000 false 65 false)).map State.ready = some false) ∧
      ((beat 0x5000188D0 (st .low .low 100000 false 66 true)).map State.ready = some true) := by decide

/-- Both disjuncts: another index, and a command that is no POLL; and the one index a valid pulse changes. -/
theorem witness_BufferChangesOnlyAtFillIndex :
    (64 ≠ (capturing 65).fillIndex.toNat) ∧ (¬ ∃ pin now, Instr.reset = .poll pin now) ∧
      ((beat 0x500018831 (st .low .low 100000 false 10 false)).map (fun t => t.entryAt 10) = some 401#16) :=
  ⟨by decide, by simp, by decide⟩

theorem witness_FirstEdgeAfterResetMeasuresNow :
    400 < (401#32).toNat ∧ (9999#32).toNat < 10000 ∧ (400#32).toNat ≤ 400 ∧ 10000 ≤ (10000#32).toNat := by decide

theorem witness_DecodeReturnsSentinelWhenNotReady :
    (st .low .low 0 false 65 false).ready = false ∧ (full (alternating 500 (-500))).Inv ∧
      ((beat 0x800000000 (full (alternating 500 (-500)))).map State.result = some 0#32) :=
  ⟨rfl, full_short_inv, by decide +kernel⟩

/-- The first and the last pair differ from the others (95_test_vectors.md Q7 and Q9). -/
theorem witness_DecodeBitsAreTheStrictComparisons :
    ((beat 0x800000000 (full fun i => if i = 2 then 2000 else alternating 500 (-1600) i)).map State.result =
      some 0x7FFFFFFF#32) ∧
    ((beat 0x800000000 (full fun i => if i = 65 then -1600 else alternating 500 (-500) i)).map State.result =
      some 0x00000001#32) := by decide +kernel

theorem witness_IntegerComparatorIsExact : 32767 ≤ 32767 ∧ 3 * 32767 < 2 ^ 17 := by decide

theorem witness_DecoderVisitsEveryIndexInRange :
    ({ capacity := 2, decodeStart := 1, decodeStride := 7 } : Config).legal ∧
      decodeIndices { capacity := 2, decodeStart := 1, decodeStride := 7 } = [1] ∧
      3 ∈ decodeIndices cfg ∧ 65 ∈ decodeIndices cfg := by decide +kernel

theorem witness_DecodeKeepsTheLowBits : ({ cw := 16 } : Config).legal ∧ ({ cw := 40 } : Config).legal := by decide

/-- Two Ready states that differ in every sign and in entries 0 and 1 (95_test_vectors.md Q8, Q11), and two states that are
not Ready and differ in their entries. -/
theorem witness_OutputsDependOnlyOnReadyAndMagnitudes :
    let s := full (alternating 500 (-1600))
    let u := full fun i => if i < 2 then 9999 else alternating (-500) 1600 i
    s.ready = u.ready ∧ (s.ready = true → ∀ k, k < 66 → 2 ≤ k → magnitude (s.entryAt k) = magnitude (u.entryAt k)) ∧
      s.buffer ≠ u.buffer ∧ (capturing 1).ready = State.reset.ready := by decide +kernel

theorem witness_DecodeReadsOnlyWrittenEntries :
    (full (alternating 500 (-1600))).Inv ∧ (full (alternating 500 (-1600))).ready = true ∧ 65 ∈ decodeIndices cfg :=
  ⟨full_inv, rfl, by decide +kernel⟩

/-- 95_test_vectors.md Q14: the largest reference that gives 1. -/
theorem witness_OneBitNeedsReferenceAtMost6665 :
    let s := full (alternating 6665 (-9999))
    let t := { full (alternating 6665 (-9999)) with result := 0xFFFFFFFF#32 }
    s.Inv ∧ s.ready = true ∧ exec .decode s = .next t ∧ t.result.getLsbD (31 - 0) = true ∧ t.result.getLsbD (31 - 31) = true :=
  ⟨by constructor <;> decide +kernel, rfl, eq_next_of_after (by decide +kernel), rfl, rfl⟩

/-- 95_test_vectors.md Q4 and Q3: just above 1.5, and exactly 1.5. -/
theorem witness_AllLongDecodesToOnesAllShortToZero :
    (∀ k, k < 32 → 3 * magnitude ((full (alternating 500 (-751))).entryAt (2 + 2 * k)) <
      2 * magnitude ((full (alternating 500 (-751))).entryAt (3 + 2 * k))) ∧
    (∀ k, k < 32 → 2 * magnitude ((full (alternating 500 (-750))).entryAt (3 + 2 * k)) ≤
      3 * magnitude ((full (alternating 500 (-750))).entryAt (2 + 2 * k))) := by decide +kernel

/-- Through an INIT, a POLL that shows an edge, a DECODE, a reserved code and a cycle in which nothing is presented. -/
theorem witness_ReadyFreezesTheCapture :
    let s := presenting (st .low .low 5 false 66 true) [⟨false, 0b001#3, .high, 0#32⟩, ⟨false, 0b010#3, .low, 9#32⟩,
      ⟨false, 0b100#3, .low, 0#32⟩, ⟨false, 0b111#3, .low, 0#32⟩]
    s.ready = true ∧ ∀ c ∈ s.inputs.take 5, c.rst = false ∧ c.op ≠ 0b101#3 := by decide

theorem witness_ResetCommandIsNotHardwareReset :
    (presenting (capturing 1) [⟨true, 0b101#3, .high, 0#32⟩]).currentCycle.rst = true ∧
      (presenting State.reset [⟨true, 0b000#3, .low, 0#32⟩]).currentCycle.rst = true := by decide

/-- NOP beats with other values on the ports they ignore. -/
theorem witness_InsertedNopBeatsChangeNothing :
    (∀ c ∈ [(⟨false, 0b000#3, .high, 12345#32⟩ : Cycle), ⟨false, 0b000#3, .low, 0#32⟩], Cycle.isBeat c 0b000#3) ∧
      [(⟨false, 0b011#3, .low, 0#32⟩ : Cycle)] ≠ [] := by decide

/-- The shortest and the longest pulse, with a POLL without an edge and noise of exactly 400 microseconds around them, that
complete a capture of 64 entries. -/
theorem witness_ValidPulsesFillTheBufferAndLatchReady :
    let samples : List (Level × Time) :=
      [(.low, 100300#32), (.high, 100401#32), (.low, 100801#32), (.high, 110800#32), (.high, 110900#32)]
    let s := presenting (capturing 64) (pollCycles samples)
    s.Inv ∧ s.ready = false ∧ s.fillIndex.toNat + (pulseDurations s.levelPrevious s.timeLastEdge samples).length = 66 ∧
      noGap s.idle s.levelPrevious s.timeLastEdge samples = true ∧
      pulseDurations s.levelPrevious s.timeLastEdge samples = [401, 9999] :=
  ⟨by constructor <;> decide +kernel, rfl, by decide, by decide, by decide⟩

/-- 41_poll.md R63, R67: a silence of 10000 microseconds is a gap only while a capture is in progress. -/
theorem test_noGap : noGap false .low 0#32 [(.high, 10000#32)] = false ∧ noGap true .low 0#32 [(.high, 10000#32)] = true ∧
    noGap true .low 0#32 [(.high, 401#32), (.low, 10401#32)] = false := by decide

/-! ## The duties of the host (Safety.lean) -/

/-- A run that keeps every duty, and one that breaks each (70_reset_and_hazards.md R99, R101, R105, R104, R103). -/
theorem test_duties :
    safeRun 3 (presenting State.reset [⟨false, 0b001#3, .high, 0#32⟩, ⟨false, 0b010#3, .high, 20000#32⟩,
      ⟨false, 0b010#3, .low, 20399#32⟩]) ∧
    initBeforePoll false [⟨false, 0b010#3, .high, 5#32⟩] = false ∧
    ¬ pollsCloseTogether [⟨false, 0b010#3, .high, 0#32⟩, ⟨false, 0b010#3, .low, 400#32⟩] ∧
    ¬ monotonicClock [⟨false, 0b010#3, .high, 5#32⟩, ⟨false, 0b010#3, .low, 4#32⟩] ∧
    keepsHandshake 1 false (presenting State.reset [⟨false, 0b100#3, .low, 0#32⟩]) = false ∧
    keepsHandshake 1 false (presenting (st .low .low 5 false 66 true) [⟨false, 0b101#3, .low, 0#32⟩]) = false ∧
    keepsHandshake 2 false (presenting (st .low .low 5 false 66 true) [⟨false, 0b100#3, .low, 0#32⟩,
      ⟨false, 0b010#3, .low, 0#32⟩]) = false := by decide

end Sys2Proof.Tests
end

section
/-! The parameters of 00_scope.md R4 meet the constraints of R5. -/

namespace Sys2Proof.Proofs.Scope

open Sys2Proof Sys2Proof.Machine

/-- Every constraint of 00_scope.md R5, in its order, and the stride's of log entry 16. -/
theorem cfg_legal : cfg.legal := by
  have thresholds : cfg.thresholdsLegal := by decide
  have decodeRange : cfg.decodeRangeLegal := by decide
  have widths : cfg.widthsLegal := by decide
  have stride : cfg.strideLegal := by decide
  exact ⟨thresholds, decodeRange, widths, stride⟩

/-- `DURATION_MAX - 1` is a valid pulse, so saturation keeps it (`saturate_of_lt_durationMax`): it is at most `DMAX_MAG`. -/
theorem durationMax_sub_one_le_dmaxMag : cfg.durationMax - 1 ≤ dmaxMag cfg :=
  calc cfg.durationMax - 1
    _ = saturate cfg (cfg.durationMax - 1) := (saturate_of_lt_durationMax (by decide)).symm
    _ ≤ dmaxMag cfg := Nat.min_le_right _ _

/-- Settles O1: the constraints one by one, and the two consequences of 00_scope.md R5 from the values of `DMAX_MAG` and
`NBITS`. -/
theorem defaultParametersAreLegal : Obligations.DefaultParametersAreLegal := by
  obtain ⟨-, -, hcw, -⟩ := cfg_widths
  exact ⟨cfg_legal, dmaxMag_cfg, durationMax_sub_one_le_dmaxMag, nbits_cfg, nbits_cfg.trans hcw.symm⟩

end Sys2Proof.Proofs.Scope
end

section
/-! The family of 10_state.md: what each command does to the phase and to the registers, the invariant of reachable states,
hardware reset and RESET, and what the outputs show. -/

namespace Sys2Proof.Proofs.StateFamily

open Sys2Proof Sys2Proof.Machine

/-! ## Commands and cycles -/

/-- The code of a beat is the code of the command it selects (30_encoding.md R44). -/
theorem opBits_decodeBeat (op : OpCode) (pin : Level) (now : Time) : (decodeBeat op pin now).opBits = op := by
  have hop : op = 0b000#3 ∨ op = 0b001#3 ∨ op = 0b010#3 ∨ op = 0b011#3 ∨ op = 0b100#3 ∨ op = 0b101#3 ∨ op = 0b110#3 ∨
      op = 0b111#3 := by revert op; decide
  rcases hop with rfl | rfl | rfl | rfl | rfl | rfl | rfl | rfl <;> rfl

theorem op_of_decodeBeat_eq {op : OpCode} {pin : Level} {now : Time} {i : Instr} (h : decodeBeat op pin now = i) :
    op = i.opBits := by
  rw [← h, opBits_decodeBeat]

/-- The four things a command can do: INIT, POLL, RESET, or drive the port `result` and nothing else. -/
theorem exec_cases {i : Instr} {s t : State} (h : exec i s = .next t) :
    (∃ pin, i = .init pin ∧ t = (s.sample pin).passLevel.drive 0#32) ∨
    (∃ pin now, i = .poll pin now ∧ t = (pollNext cfg pin now s).drive 0#32) ∨
    (i = .reset ∧ t = (((s.setReady false).setFillIndex 0#7).setIdle true).drive 0#32) ∨
    (∃ r, t = s.drive r) := by
  cases i with
  | init pin => cases h; exact .inl ⟨pin, rfl, rfl⟩
  | poll pin now => cases h; exact .inr (.inl ⟨pin, now, rfl, rfl⟩)
  | reset => cases h; exact .inr (.inr (.inl ⟨rfl, rfl⟩))
  | nop | isReady | decode | reserved110 | reserved111 => cases h; exact .inr (.inr (.inr ⟨_, rfl⟩))

/-- The three things an edge can do: abandon the capture, append a pulse, or be ignored (41_poll.md R63, R64, R66, R67). -/
theorem pollEdge_cases (now : Time) (s : State) :
    (s.idle = false ∧ 10000 ≤ elapsed cfg now.toNat s.timeLastEdge.toNat ∧
      pollEdge cfg now s = State.latchReady cfg ((((s.setIdle true).setFillIndex 0#7).setTimeOrigin now).passLevel)) ∨
    (400 < elapsed cfg now.toNat s.timeLastEdge.toNat ∧ elapsed cfg now.toNat s.timeLastEdge.toNat < 10000 ∧
      pollEdge cfg now s = State.latchReady cfg
        ((((s.setIdle false).appendPulse cfg (elapsed cfg now.toNat s.timeLastEdge.toNat)).setTimeOrigin now).passLevel)) ∨
    ((elapsed cfg now.toNat s.timeLastEdge.toNat ≤ 400 ∨
        10000 ≤ elapsed cfg now.toNat s.timeLastEdge.toNat ∧ s.idle = true) ∧
      pollEdge cfg now s = State.latchReady cfg ((s.setTimeOrigin now).passLevel)) := by
  have hc : cfg.durationMin < cfg.durationMax := by decide
  obtain ⟨-, h, hi⟩ | ⟨-, h1, h2⟩ | ⟨-, h⟩ | ⟨-, h, hi⟩ :=
    classify_cases cfg (elapsed cfg now.toNat s.timeLastEdge.toNat) s.idle
  · exact .inl ⟨hi, h, pollEdge_gap hi h⟩
  · exact .inr (.inl ⟨h1, h2, pollEdge_validPulse h1 h2⟩)
  · exact .inr (.inr ⟨.inl h, pollEdge_ignored hc (.inl h)⟩)
  · exact .inr (.inr ⟨.inr ⟨h, hi⟩, pollEdge_ignored hc (.inr ⟨h, hi⟩)⟩)

/-! ## The invariant -/

/-- The clauses of the invariant that hold at every point inside a POLL: all but the two levels, which differ between the
sample and `passLevel`, and `ready`, which the latch sets last (41_poll.md R73). -/
structure CaptureInv (s : State) : Prop where
  fill_le : s.fillIndex.toNat ≤ cfg.capacity
  idle_iff : s.idle = true ↔ s.fillIndex.toNat = 0
  buffer_wf : Memory.wf s.buffer = true
  entries_valid : ∀ p ∈ s.buffer, validMagnitude p.2 = true
  filled : ∀ i, i < s.fillIndex.toNat → (Memory.read s.buffer i).isSome = true

theorem inv_iff (s : State) :
    s.Inv ↔ CaptureInv s ∧ (s.ready = true ↔ s.fillIndex.toNat = cfg.capacity) ∧ s.levelCurrent = s.levelPrevious :=
  ⟨fun h => ⟨⟨h.fill_le, h.idle_iff, h.buffer_wf, h.entries_valid, h.filled⟩, h.ready_iff, h.levels_eq⟩,
    fun ⟨h, hr, hl⟩ => ⟨h.fill_le, h.idle_iff, hr, hl, h.buffer_wf, h.entries_valid, h.filled⟩⟩

theorem captureInv_of_inv {s : State} (h : s.Inv) : CaptureInv s := ((inv_iff s).mp h).1

/-- These clauses speak of `idle`, `fill_index` and the buffer only. -/
theorem captureInv_congr {s t : State} (h : CaptureInv s) (hi : t.idle = s.idle) (hf : t.fillIndex = s.fillIndex)
    (hb : t.buffer = s.buffer) : CaptureInv t := by
  obtain ⟨h1, h2, h3, h4, h5⟩ := h
  constructor <;> simpa only [hi, hf, hb]

/-- A logical clear, by a gap or by RESET, leaves every entry and so keeps these clauses (10_state.md R23, R28). -/
theorem captureInv_of_clear {s t : State} (h : CaptureInv s) (hi : t.idle = true) (hf : t.fillIndex = 0#7)
    (hb : t.buffer = s.buffer) : CaptureInv t where
  fill_le := by simp [hf]
  idle_iff := by simp [hi, hf]
  buffer_wf := hb ▸ h.buffer_wf
  entries_valid := hb ▸ h.entries_valid
  filled := by simp [hf]

/-- The entry of a valid pulse has a valid magnitude (41_poll.md R64, R72). -/
theorem validMagnitude_storedEntry (l : Level) {dt : Nat} (h1 : 400 < dt) (h2 : dt < 10000) :
    validMagnitude (storedEntry cfg l dt) = true := by
  simp only [validMagnitude, magnitude_storedEntry (l := l) h2, decide_eq_true_eq]
  exact ⟨h1, h2⟩

/-- The append keeps the buffer canonical, valid, and written below `fill_index`. -/
theorem captureInv_validPulse {s : State} (h : CaptureInv s) {dt : Nat} (h1 : 400 < dt) (h2 : dt < 10000) :
    CaptureInv ((s.setIdle false).appendPulse cfg dt) := by
  obtain ⟨room, ha⟩ | ⟨full, ha⟩ := appendPulse_cases cfg (s.setIdle false) dt
  · have hroom : s.fillIndex.toNat < 66 := room
    have hsucc : (s.fillIndex + 1#7).toNat = s.fillIndex.toNat + 1 := fillIndex_succ hroom
    rw [ha]
    constructor
    case fill_le => simpa [hsucc] using hroom
    case idle_iff => simp [hsucc]
    case buffer_wf => exact wf_write _ h.buffer_wf room
    case entries_valid =>
      intro p hp
      rcases mem_write hp with rfl | hp
      · exact validMagnitude_storedEntry _ h1 h2
      · exact h.entries_valid p hp
    case filled =>
      intro i hi
      simp only [setFillIndex_fillIndex, setIdle_fillIndex, hsucc] at hi
      simp only [setFillIndex_buffer, writeEntry_buffer, setIdle_fillIndex, setIdle_buffer]
      by_cases hik : i = s.fillIndex.toNat
      · rw [hik, read_write_same, Option.isSome_some]
      · rw [read_write_other _ _ hik]
        exact h.filled i (by omega)
  · have hfull : 66 ≤ s.fillIndex.toNat := full
    rw [ha]
    exact ⟨h.fill_le, by simp; omega, h.buffer_wf, h.entries_valid, h.filled⟩

/-- The latch restores the clause on `ready`, and so the whole invariant (41_poll.md R70). -/
theorem inv_latchReady {s : State} (h : CaptureInv s) (hr : s.ready = false) (hl : s.levelCurrent = s.levelPrevious) :
    (s.latchReady cfg).Inv :=
  (inv_iff _).mpr ⟨captureInv_congr h (by simp) (by simp) (by simp), by simp [hr], by simpa⟩

theorem inv_pollEdge {s : State} (now : Time) (h : CaptureInv s) (hr : s.ready = false) : (pollEdge cfg now s).Inv := by
  obtain ⟨-, -, hu⟩ | ⟨h1, h2, hu⟩ | ⟨-, hu⟩ := pollEdge_cases now s <;> rw [hu]
  · exact inv_latchReady (captureInv_of_clear h rfl rfl rfl) hr rfl
  · exact inv_latchReady (captureInv_congr (captureInv_validPulse h h1 h2) rfl rfl rfl) (by simpa) rfl
  · exact inv_latchReady (captureInv_congr h rfl rfl rfl) hr rfl

/-- INIT, and a POLL without an edge, move only the levels. -/
theorem inv_sample_passLevel {s : State} (pin : Level) (h : s.Inv) : ((s.sample pin).passLevel).Inv :=
  (inv_iff _).mpr ⟨captureInv_congr (captureInv_of_inv h) rfl rfl rfl, h.ready_iff, rfl⟩

theorem inv_pollNext {s : State} (pin : Level) (now : Time) (h : s.Inv) : (pollNext cfg pin now s).Inv := by
  obtain ⟨-, hu⟩ | ⟨-, -, hu⟩ | ⟨hr, -, hu⟩ := pollNext_cases cfg pin now s <;> rw [hu]
  · exact h
  · exact inv_sample_passLevel pin h
  · exact inv_pollEdge now (captureInv_congr (captureInv_of_inv h) rfl rfl rfl) hr

theorem inv_drive {s : State} (r : Code) (h : s.Inv) : (s.drive r).Inv :=
  ⟨h.fill_le, h.idle_iff, h.ready_iff, h.levels_eq, h.buffer_wf, h.entries_valid, h.filled⟩

theorem inv_takeCycle {s : State} (h : s.Inv) : s.takeCycle.Inv :=
  ⟨h.fill_le, h.idle_iff, h.ready_iff, h.levels_eq, h.buffer_wf, h.entries_valid, h.filled⟩

theorem inv_exec {i : Instr} {s t : State} (h : s.Inv) (hx : exec i s = .next t) : t.Inv := by
  obtain ⟨pin, -, rfl⟩ | ⟨pin, now, -, rfl⟩ | ⟨-, rfl⟩ | ⟨r, rfl⟩ := exec_cases hx
  · exact inv_drive _ (inv_sample_passLevel pin h)
  · exact inv_drive _ (inv_pollNext pin now h)
  · exact inv_drive _ ((inv_iff _).mpr ⟨captureInv_of_clear (captureInv_of_inv h) rfl rfl rfl, by simp, h.levels_eq⟩)
  · exact inv_drive r h

/-- Hardware reset gives the invariant from any state. -/
theorem inv_hardwareReset (s : State) : (hardwareReset s).Inv :=
  ⟨by simp, by simp, by simp, rfl, wf_reset, by simp, by simp⟩

/-- Settles O13: a cycle is a hardware reset, which gives the invariant anew, or a command, which keeps it. -/
theorem everyStepKeepsTheInvariant : Obligations.EveryStepKeepsTheInvariant := by
  intro s t h hs
  obtain ⟨-, hx⟩ | ⟨-, hx⟩ := step_cases s <;> rw [hx] at hs
  · cases hs; exact inv_hardwareReset _
  · exact inv_exec (inv_takeCycle h) hs

/-- Settles O12. -/
theorem resetStateMeetsTheInvariant : Obligations.ResetStateMeetsTheInvariant :=
  ⟨by decide, by decide, by decide, rfl, wf_reset, nofun, nofun⟩


/-! ## The phases -/

/-- The phase of a state, read from its two flags; `inPhase_iff` ties it to 10_state.md R21. -/
def phase (s : State) : Phase := if s.ready then .ready else if s.idle then .idle else .capturing

theorem phase_of_ready {s : State} (hr : s.ready = true) : phase s = .ready := by simp [phase, hr]

theorem phase_of_idle {s : State} (hr : s.ready = false) (hi : s.idle = true) : phase s = .idle := by simp [phase, hr, hi]

theorem phase_of_capturing {s : State} (hr : s.ready = false) (hi : s.idle = false) : phase s = .capturing := by
  simp [phase, hr, hi]

theorem phase_congr {s t : State} (hr : t.ready = s.ready) (hi : t.idle = s.idle) : phase t = phase s := by
  simp only [phase, hr, hi]

/-- Under the invariant the two flags decide the phase: R24 (b) and (c) give `fill_index` what R21 asks of it. -/
theorem inPhase_iff {s : State} (h : s.Inv) (p : Phase) : s.inPhase p ↔ phase s = p := by
  have hle : s.fillIndex.toNat ≤ 66 := h.fill_le
  have hi := h.idle_iff
  have hr : s.ready = true ↔ s.fillIndex.toNat = 66 := h.ready_iff
  cases hready : s.ready
  case true =>
    rw [phase_of_ready hready]
    have hfull : s.fillIndex.toNat = 66 := hr.mp hready
    cases p <;> simp [State.inPhase, hready, hfull]
  case false =>
    have hroom : s.fillIndex.toNat ≠ 66 := fun hf => by simp [hr.mpr hf] at hready
    cases hidle : s.idle
    case true =>
      rw [phase_of_idle hready hidle]
      have hempty : s.fillIndex.toNat = 0 := hi.mp hidle
      cases p <;> simp [State.inPhase, hready, hidle, hempty]
    case false =>
      rw [phase_of_capturing hready hidle]
      have hsome : s.fillIndex.toNat ≠ 0 := fun hf => by simp [hi.mpr hf] at hidle
      cases p <;> simp [State.inPhase, hready, hidle]
      omega

/-- Settles O14: the phase is the one the flags say, and in Ready `fill_index` is not 0. -/
theorem exactlyOnePhase : Obligations.ExactlyOnePhase := by
  intro s h
  refine ⟨⟨phase s, (inPhase_iff h _).mpr rfl, fun p hp => ((inPhase_iff h p).mp hp).symm⟩, fun ⟨hfull, _⟩ => ?_⟩
  have hne : s.fillIndex.toNat ≠ 0 := by rw [hfull]; decide
  simpa [hne] using h.idle_iff

/-- With room the append advances `fill_index` by one (41_poll.md R64, R72). -/
theorem appendPulse_fillIndex_toNat {s : State} (dt : Nat) (hroom : s.fillIndex.toNat < 66) :
    (s.appendPulse cfg dt).fillIndex.toNat = s.fillIndex.toNat + 1 := by
  obtain ⟨-, ha⟩ | ⟨hfull, -⟩ := appendPulse_cases cfg s dt
  · rw [ha, setFillIndex_fillIndex, fillIndex_succ hroom]
  · exact absurd hroom (Nat.not_lt.mpr hfull)

/-- The transitions an edge can make while not ready (10_state.md R22). -/
theorem phase_pollEdge {s : State} (now : Time) (h : CaptureInv s) (hr : s.ready = false) (hf : s.fillIndex.toNat ≠ 66) :
    phase (pollEdge cfg now s) = phase s ∨
    (phase s = .capturing ∧ phase (pollEdge cfg now s) = .idle ∧ 10000 ≤ elapsed cfg now.toNat s.timeLastEdge.toNat) ∨
    ((400 < elapsed cfg now.toNat s.timeLastEdge.toNat ∧ elapsed cfg now.toNat s.timeLastEdge.toNat < 10000) ∧
      ((phase s = .idle ∧ phase (pollEdge cfg now s) = .capturing) ∨
        (phase s = .capturing ∧ phase (pollEdge cfg now s) = .ready ∧ s.fillIndex = 65#7))) := by
  obtain ⟨hi, hdt, hu⟩ | ⟨h1, h2, hu⟩ | ⟨-, hu⟩ := pollEdge_cases now s <;> rw [hu]
  · rw [latchReady_of_ne _ _ (by simp)]
    exact .inr (.inl ⟨phase_of_capturing hr hi, phase_of_idle hr rfl, hdt⟩)
  · have hfill := appendPulse_fillIndex_toNat (s := s.setIdle false) (elapsed cfg now.toNat s.timeLastEdge.toNat)
      (lt_of_le_of_ne h.fill_le hf)
    by_cases hlast : s.fillIndex = 65#7
    · have hidle : s.idle = false := by simpa [hlast] using h.idle_iff
      refine .inr (.inr ⟨⟨h1, h2⟩, .inr ⟨phase_of_capturing hr hidle, phase_of_ready ?_, hlast⟩⟩)
      simp [hfill, hlast]
    · have hne : s.fillIndex.toNat + 1 ≠ 66 := by bv_omega
      rw [latchReady_of_ne _ _ (by simpa [hfill] using hne)]
      cases hidle : s.idle
      · exact .inl ((phase_of_capturing (by simpa) (by simp)).trans (phase_of_capturing hr hidle).symm)
      · exact .inr (.inr ⟨⟨h1, h2⟩, .inl ⟨phase_of_idle hr hidle, phase_of_capturing (by simpa) (by simp)⟩⟩)
  · rw [latchReady_of_ne _ _ hf]
    exact .inl (phase_congr rfl rfl)

/-- Settles O15: every command but RESET and a POLL that detects an edge keeps both flags. -/
theorem phaseChangesOnlyAsTheTableSays : Obligations.PhaseChangesOnlyAsTheTableSays := by
  intro s t i p q h hx hp hq hpq
  obtain rfl := (inPhase_iff h p).mp hp
  obtain rfl := (inPhase_iff (inv_exec h hx) q).mp hq
  obtain ⟨pin, -, rfl⟩ | ⟨pin, now, rfl, rfl⟩ | ⟨rfl, rfl⟩ | ⟨r, rfl⟩ := exec_cases hx
  · exact absurd rfl hpq
  · have hdrive : phase ((pollNext cfg pin now s).drive 0#32) = phase (pollNext cfg pin now s) := rfl
    rw [hdrive] at hpq ⊢
    obtain ⟨-, hu⟩ | ⟨-, -, hu⟩ | ⟨hr, hedge, hu⟩ := pollNext_cases cfg pin now s <;> rw [hu] at hpq ⊢
    · exact absurd rfl hpq
    · exact absurd rfl hpq
    · have hf : s.fillIndex.toNat ≠ 66 := fun hf => by simp [h.ready_iff.mpr hf] at hr
      have hsample : CaptureInv (s.sample pin) := captureInv_congr (captureInv_of_inv h) rfl rfl rfl
      obtain hsame | ⟨hp, hq, hdt⟩ | ⟨⟨h1, h2⟩, ⟨hp, hq⟩ | ⟨hp, hq, hlast⟩⟩ := phase_pollEdge now hsample hr hf
      · exact absurd hsame.symm hpq
      · exact .inr (.inl ⟨hp, hq, .inr ⟨pin, now, rfl, hedge, hdt⟩⟩)
      · exact .inl ⟨hp, hq, pin, now, rfl, hedge, h1, h2⟩
      · exact .inr (.inr (.inl ⟨hp, hq, hlast, pin, now, rfl, hedge, h1, h2⟩))
  · have hq : phase ((((s.setReady false).setFillIndex 0#7).setIdle true).drive 0#32) = .idle := phase_of_idle rfl rfl
    cases hps : phase s with
    | idle => exact absurd (hps.trans hq.symm) hpq
    | capturing => exact .inr (.inl ⟨rfl, hq, .inl rfl⟩)
    | ready => exact .inr (.inr (.inr ⟨rfl, hq, rfl⟩))
  · exact absurd rfl hpq

/-! ## The registers in one cycle -/

/-- No command but RESET clears `ready` (10_state.md R14). -/
theorem ready_exec {i : Instr} {s t : State} (hx : exec i s = .next t) (hs : s.ready = true) (ht : t.ready = false) :
    i = .reset := by
  obtain ⟨pin, -, rfl⟩ | ⟨pin, now, -, rfl⟩ | ⟨hi, -⟩ | ⟨r, rfl⟩ := exec_cases hx
  · exact absurd (hs.symm.trans ht) (by decide)
  · have hinert : pollNext cfg pin now s = s := if_pos hs
    rw [drive_ready, hinert, hs] at ht
    exact absurd ht (by decide)
  · exact hi
  · exact absurd (hs.symm.trans ht) (by decide)

/-- Settles O16. -/
theorem readyIsClearedOnlyByReset : Obligations.ReadyIsClearedOnlyByReset := by
  intro s t hs hx ht
  obtain ⟨hrst, -⟩ | ⟨-, hstep⟩ := step_cases s
  · exact .inl hrst
  · rw [hstep] at hx
    exact .inr (op_of_decodeBeat_eq (ready_exec (s := s.takeCycle) hx hs ht))

/-- An edge keeps `fill_index`, advances it by one up to `CAPACITY`, or clears it in a capture (10_state.md R15). -/
theorem fillIndex_pollEdge (now : Time) (s : State) :
    (pollEdge cfg now s).fillIndex = s.fillIndex ∨
    ((pollEdge cfg now s).fillIndex.toNat = s.fillIndex.toNat + 1 ∧ (pollEdge cfg now s).fillIndex.toNat ≤ 66) ∨
    ((pollEdge cfg now s).fillIndex = 0#7 ∧ s.idle = false) := by
  obtain ⟨hi, -, hu⟩ | ⟨-, -, hu⟩ | ⟨-, hu⟩ := pollEdge_cases now s <;> rw [hu]
  · exact .inr (.inr ⟨by simp, hi⟩)
  · generalize elapsed cfg now.toNat s.timeLastEdge.toNat = dt
    simp only [latchReady_fillIndex, passLevel_fillIndex, setTimeOrigin_fillIndex]
    obtain ⟨hroom, -⟩ | ⟨-, ha⟩ := appendPulse_cases cfg (s.setIdle false) dt
    · rw [appendPulse_fillIndex_toNat dt hroom]
      exact .inr (.inl ⟨rfl, hroom⟩)
    · rw [ha]
      exact .inl rfl
  · exact .inl (by simp)

/-- What a command can do to `fill_index` (10_state.md R20). -/
theorem fillIndex_exec {i : Instr} {s t : State} (hx : exec i s = .next t) :
    t.fillIndex = s.fillIndex ∨
    (t.fillIndex.toNat = s.fillIndex.toNat + 1 ∧ t.fillIndex.toNat ≤ 66 ∧ i.opBits = 0b010#3 ∧ s.ready = false) ∨
    (t.fillIndex = 0#7 ∧ (i = .reset ∨ (i.opBits = 0b010#3 ∧ s.ready = false ∧ s.idle = false))) := by
  obtain ⟨pin, -, rfl⟩ | ⟨pin, now, rfl, rfl⟩ | ⟨rfl, rfl⟩ | ⟨r, rfl⟩ := exec_cases hx
  · exact .inl rfl
  · rw [drive_fillIndex]
    obtain ⟨-, hu⟩ | ⟨-, -, hu⟩ | ⟨hr, -, hu⟩ := pollNext_cases cfg pin now s <;> rw [hu]
    · exact .inl rfl
    · exact .inl rfl
    · obtain hsame | ⟨hsucc, hle⟩ | ⟨hzero, hi⟩ := fillIndex_pollEdge now (s.sample pin)
      · exact .inl hsame
      · exact .inr (.inl ⟨hsucc, hle, rfl, hr⟩)
      · exact .inr (.inr ⟨hzero, .inr ⟨rfl, hr, hi⟩⟩)
  · exact .inr (.inr ⟨rfl, .inl rfl⟩)
  · exact .inl rfl

/-- Settles O17. -/
theorem fillIndexStaysAdvancesByOneOrClears : Obligations.FillIndexStaysAdvancesByOneOrClears := by
  intro s t hx
  obtain ⟨hrst, hstep⟩ | ⟨hrst, hstep⟩ := step_cases s <;> rw [hstep] at hx
  · cases hx
    exact .inr (.inr ⟨rfl, .inl hrst⟩)
  · obtain hsame | ⟨hsucc, hle, hop, hr⟩ | ⟨hzero, hi | ⟨hop, hr, hidle⟩⟩ := fillIndex_exec hx
    · exact .inl hsame
    · exact .inr (.inl ⟨hsucc, hle, hrst, by rwa [opBits_decodeBeat] at hop, hr⟩)
    · exact .inr (.inr ⟨hzero, .inr (.inl (op_of_decodeBeat_eq hi))⟩)
    · exact .inr (.inr ⟨hzero, .inr (.inr ⟨by rwa [opBits_decodeBeat] at hop, hr, hidle⟩)⟩)

@[simp] theorem pollEdge_levelCurrent (c : Config) (now : Time) (s : State) :
    (pollEdge c now s).levelCurrent = s.levelCurrent := by
  simp [pollEdge]

@[simp] theorem pollEdge_levelPrevious (c : Config) (now : Time) (s : State) :
    (pollEdge c now s).levelPrevious = s.levelCurrent := by
  simp [pollEdge]

@[simp] theorem pollEdge_timeLastEdge (c : Config) (now : Time) (s : State) : (pollEdge c now s).timeLastEdge = now := by
  simp [pollEdge]

/-- Settles O21: both ways of a POLL while not ready end in `passLevel`. -/
theorem levelsFollowTheSample : Obligations.LevelsFollowTheSample := by
  refine ⟨fun pin s => ⟨_, exec_init s pin, rfl, rfl⟩, fun pin now s hr => ⟨_, exec_poll s pin now, ?_⟩⟩
  rw [drive_levelPrevious, drive_levelCurrent]
  obtain ⟨hready, -⟩ | ⟨-, -, hu⟩ | ⟨-, -, hu⟩ := pollNext_cases cfg pin now s
  · exact absurd (hr.symm.trans hready) (by decide)
  · rw [hu]; exact ⟨rfl, rfl⟩
  · rw [hu]; simp

/-- POLL moves the time origin exactly on an edge (41_poll.md R57, R59, R69). -/
theorem pollNext_timeLastEdge (c : Config) (pin : Level) (now : Time) (s : State) :
    (pollNext c pin now s).timeLastEdge =
      if s.ready = false ∧ pin ≠ s.levelPrevious then now else s.timeLastEdge := by
  obtain ⟨hr, hu⟩ | ⟨-, hp, hu⟩ | ⟨hr, hp, hu⟩ := pollNext_cases c pin now s <;> rw [hu]
  · simp [hr]
  · simp [hp]
  · simp [hr, hp]

/-- Settles O22. -/
theorem timeOriginMovesExactlyOnEdges : Obligations.TimeOriginMovesExactlyOnEdges := by
  intro i s
  cases i with
  | poll pin now => exact ⟨_, exec_poll s pin now, pollNext_timeLastEdge cfg pin now s⟩
  | nop | init | isReady | decode | reset | reserved110 | reserved111 => exact ⟨_, rfl, rfl⟩

/-- While not ready the latch alone decides `ready` (41_poll.md R70). -/
theorem latchReady_of_not_ready {c : Config} {s : State} (hr : s.ready = false) :
    s.latchReady c = s.setReady (decide (s.fillIndex.toNat = c.capacity)) := by
  by_cases hf : s.fillIndex.toNat = c.capacity
  · rw [latchReady_of_eq c s hf, decide_eq_true hf]
  · rw [latchReady_of_ne c s hf, decide_eq_false hf, ← hr]
    rfl

/-- Settles O29: the append leaves the state as it is, and the latch tests the `fill_index` it found. -/
theorem validPulseWithoutRoomIsDropped : Obligations.ValidPulseWithoutRoomIsDropped := by
  intro pin now s hr hp h1 h2 hfull
  have hpoll : pollNext cfg pin now s = pollEdge cfg now (s.sample pin) := by
    simp [pollNext, pollSample, hr, hp]
  have hdrop (dt : Nat) : ((s.sample pin).setIdle false).appendPulse cfg dt = (s.sample pin).setIdle false :=
    if_neg (Nat.not_lt.mpr hfull)
  rw [exec_poll, hpoll, pollEdge_validPulse (s := s.sample pin) h1 h2, hdrop, latchReady_of_not_ready]
  · rfl
  · exact hr

/-! ## Outputs -/

/-- The walk reads the entries 2 to 65 (42_query.md R76, R80). -/
theorem mem_decodeIndices {i : Nat} (h : i ∈ decodeIndices cfg) : 3 ≤ i ∧ i ≤ 65 := by
  simp only [decodeIndices, nbits_cfg, List.mem_map, List.mem_range] at h
  omega

theorem decodeWalk_congr {mag mag' : Nat → Nat} (h : ∀ k, 2 ≤ k → k ≤ 65 → mag k = mag' k) :
    decodeWalk cfg mag = decodeWalk cfg mag' := by
  refine List.foldl_ext _ _ _ fun acc i hi => ?_
  obtain ⟨h3, h65⟩ := mem_decodeIndices hi
  rw [h (i - 1) (by omega) (by omega), h i (by omega) h65]

/-- DECODE shows `ready` and, in Ready, the magnitudes of the entries 2 to 65 (42_query.md R75, R80). -/
theorem decoded_congr {s s' : State} (hr : s.ready = s'.ready)
    (h : s.ready = true → ∀ k, 2 ≤ k → k ≤ 65 → magnitude (s.entryAt k) = magnitude (s'.entryAt k)) :
    s.decoded cfg = s'.decoded cfg := by
  unfold State.decoded
  rw [← hr]
  split
  case isTrue hready => exact decodeWalk_congr (h hready)
  case isFalse => rfl

/-- Settles O39: only IS_READY and DECODE have a result that is not 0. -/
theorem outputsDependOnlyOnReadyAndMagnitudes : Obligations.OutputsDependOnlyOnReadyAndMagnitudes := by
  intro s s' hr h
  refine ⟨hr, fun i => ?_⟩
  cases i with
  | isReady => exact ⟨_, _, rfl, rfl, by simp [hr]⟩
  | decode => exact ⟨_, _, rfl, rfl, by rw [drive_result, drive_result, decoded_congr hr h]⟩
  | nop | init | poll | reset | reserved110 | reserved111 => exact ⟨_, _, rfl, rfl, rfl⟩

/-! ## Hardware reset and RESET -/

theorem step_of_rst {s : State} (h : s.currentCycle.rst = true) : step s = .next (hardwareReset s.takeCycle) := if_pos h

/-- After hardware reset every entry is unspecified again (10_state.md R27, log entry 4). -/
theorem hardwareReset_entryAt (s : State) (k : Nat) :
    (hardwareReset s).entryAt k = Config.powerOnEntry (s.resetCount + 1) k := rfl

/-- Settles O9. -/
theorem hardwareResetForcesResetValues : Obligations.HardwareResetForcesResetValues := by
  intro s c rest hin hrst
  have hcycle : s.currentCycle = c := by simp [State.currentCycle, hin]
  have hrest : (hardwareReset s.takeCycle).inputs = rest := by simp [hin]
  exact ⟨_, step_of_rst (hcycle ▸ hrst), rfl, rfl, rfl, rfl, rfl, rfl, rfl, rfl, hrest, hardwareReset_entryAt _⟩

/-- Settles O11: each register has the value `State.reset` gives it, and these are the flags of the phase Idle. -/
theorem resetStateValues : Obligations.ResetStateValues := by
  have hphase : State.reset.inPhase .idle := ⟨rfl, rfl, rfl⟩
  exact ⟨rfl, rfl, rfl, rfl, rfl, rfl, rfl, rfl, hphase⟩

/-- Settles O44: the elements of the state a hardware reset gives are those of `State.reset`. -/
theorem resetCommandIsNotHardwareReset : Obligations.ResetCommandIsNotHardwareReset := by
  refine ⟨fun s => ⟨_, exec_reset s, rfl, rfl, rfl, rfl, rfl, rfl, fun k => by simp⟩, fun s s' h h' => ?_⟩
  exact ⟨_, _, step_of_rst h, step_of_rst h', rfl⟩

end Sys2Proof.Proofs.StateFamily
end

section
/-! The family of 20_memory.md: the frame of the buffer over all commands, the indices the decoder visits, and what stands
at them. -/

namespace Sys2Proof.Proofs.MemoryFamily

open Sys2Proof Sys2Proof.Machine Sys2Proof.Proofs.StateFamily

/-! ## The write port -/

/-- The append touches the entry at `fill_index` only, and that one only with room (20_memory.md R31, R32). -/
theorem appendPulse_entryAt (c : Config) (s : State) (dt k : Nat) :
    (s.appendPulse c dt).entryAt k = s.entryAt k ∨ (k = s.fillIndex.toNat ∧ s.fillIndex.toNat < c.capacity) := by
  obtain ⟨hroom, ha⟩ | ⟨-, ha⟩ := appendPulse_cases c s dt <;> rw [ha]
  · by_cases hk : k = s.fillIndex.toNat
    · exact .inr ⟨hk, hroom⟩
    · exact .inl (entryAt_writeEntry_other _ _ _ _ hk)
  · exact .inl rfl

/-- Of the three kinds of edge only a valid pulse reaches the buffer (41_poll.md R63, R64, R66, R67). -/
theorem pollEdge_entryAt (now : Time) (s : State) (k : Nat) :
    (pollEdge cfg now s).entryAt k = s.entryAt k ∨
    (k = s.fillIndex.toNat ∧ 400 < elapsed cfg now.toNat s.timeLastEdge.toNat ∧
      elapsed cfg now.toNat s.timeLastEdge.toNat < 10000 ∧ s.fillIndex.toNat < 66) := by
  obtain ⟨-, -, hu⟩ | ⟨h1, h2, hu⟩ | ⟨-, hu⟩ := pollEdge_cases now s <;> rw [hu]
  · exact .inl (by simp)
  · rw [latchReady_entryAt, passLevel_entryAt, setTimeOrigin_entryAt]
    obtain hsame | ⟨hk, hroom⟩ := appendPulse_entryAt cfg (s.setIdle false) (elapsed cfg now.toNat s.timeLastEdge.toNat) k
    · exact .inl hsame
    · exact .inr ⟨hk, h1, h2, hroom⟩
  · exact .inl (by simp)

/-- What a POLL can do to an entry: nothing while ready or without an edge, else what the edge does. -/
theorem pollNext_entryAt (pin : Level) (now : Time) (s : State) (k : Nat) :
    (pollNext cfg pin now s).entryAt k = s.entryAt k ∨
    (k = s.fillIndex.toNat ∧ s.ready = false ∧ pin ≠ s.levelPrevious ∧
      400 < elapsed cfg now.toNat s.timeLastEdge.toNat ∧ elapsed cfg now.toNat s.timeLastEdge.toNat < 10000 ∧
      s.fillIndex.toNat < 66) := by
  obtain ⟨-, hu⟩ | ⟨-, -, hu⟩ | ⟨hr, hedge, hu⟩ := pollNext_cases cfg pin now s <;> rw [hu]
  · exact .inl rfl
  · exact .inl rfl
  · obtain hsame | ⟨hk, hpulse⟩ := pollEdge_entryAt now (s.sample pin) k
    · exact .inl hsame
    · exact .inr ⟨hk, hr, hedge, hpulse⟩

/-- Settles O31: no command but POLL reaches the buffer. -/
theorem bufferChangesOnlyAtFillIndex : Obligations.BufferChangesOnlyAtFillIndex := by
  intro i s
  cases i with
  | poll pin now =>
    refine ⟨_, exec_poll s pin now, fun k hframe => ?_⟩
    rw [drive_entryAt]
    obtain hsame | ⟨hk, hpulse⟩ := pollNext_entryAt pin now s k
    · exact hsame
    · obtain hne | hnone := hframe
      · exact absurd hk hne
      · exact absurd ⟨pin, now, rfl, hpulse⟩ hnone
  | nop | init | isReady | decode | reset | reserved110 | reserved111 => exact ⟨_, rfl, fun _ _ => rfl⟩

/-! ## The read port -/

@[simp] theorem decodeIndices_length (c : Config) : (decodeIndices c).length = nbits c := by simp [decodeIndices]

theorem mem_decodeIndices_iff (c : Config) (i : Nat) :
    i ∈ decodeIndices c ↔ ∃ k, k < nbits c ∧ c.decodeStart + k * c.decodeStride = i := by
  simp [decodeIndices]

/-- `NBITS` counts the multiples of the stride that stay at or below the last index (42_query.md R76, R78). -/
theorem lt_nbits_iff {c : Config} (h : c.legal) (k : Nat) :
    k < nbits c ↔ c.decodeStart + k * c.decodeStride ≤ c.capacity - 1 := by
  obtain ⟨-, ⟨hroom, -⟩, -, hstride⟩ := h
  calc k < nbits c
    _ ↔ k ≤ (c.capacity - 1 - c.decodeStart) / c.decodeStride := Nat.lt_succ_iff
    _ ↔ k * c.decodeStride ≤ c.capacity - 1 - c.decodeStart := Nat.le_div_iff_mul_le hstride
    _ ↔ c.decodeStart + k * c.decodeStride ≤ c.capacity - 1 := by omega

/-- The visited indices, without counting them: every step of the stride from the start up to the last index. -/
theorem mem_decodeIndices_iff_of_legal {c : Config} (h : c.legal) (i : Nat) :
    i ∈ decodeIndices c ↔
      c.decodeStart ≤ i ∧ i ≤ c.capacity - 1 ∧ ∃ k, i = c.decodeStart + k * c.decodeStride := by
  simp only [mem_decodeIndices_iff, lt_nbits_iff h]
  constructor
  · rintro ⟨k, hlast, rfl⟩
    exact ⟨Nat.le_add_right _ _, hlast, k, rfl⟩
  · rintro ⟨-, hlast, k, rfl⟩
    exact ⟨k, hlast, rfl⟩

/-- Settles O37: the range follows from the exact membership and the constraints of 00_scope.md R5. -/
theorem decoderVisitsEveryIndexInRange : Obligations.DecoderVisitsEveryIndexInRange := by
  intro c h
  refine ⟨decodeIndices_length c, mem_decodeIndices_iff_of_legal h, fun i hi => ?_⟩
  obtain ⟨hstart, hlast, -⟩ := (mem_decodeIndices_iff_of_legal h i).mp hi
  obtain ⟨-, ⟨hroom, hone⟩, -⟩ := h
  omega

/-- A written entry has the magnitude of a valid pulse (10_state.md R24 (e), (f)). -/
theorem magnitude_of_read {s : State} (h : s.Inv) {i : Nat} {v : Entry} (hv : Memory.read s.buffer i = some v) :
    401 ≤ magnitude v ∧ magnitude v ≤ 9999 := by
  have hvalid := h.entries_valid _ (read_mem hv)
  simp only [validMagnitude, decide_eq_true_eq] at hvalid
  omega

/-- In Ready all 66 entries have been written (20_memory.md R35). -/
theorem exists_read_of_ready {s : State} (h : s.Inv) (hr : s.ready = true) {i : Nat} (hi : i < 66) :
    ∃ v, Memory.read s.buffer i = some v := by
  have hfull : s.fillIndex.toNat = 66 := h.ready_iff.mp hr
  exact Option.isSome_iff_exists.mp (h.filled i (hfull ▸ hi))

/-- Settles O40: both entries of a visited pair lie below 66. -/
theorem decodeReadsOnlyWrittenEntries : Obligations.DecodeReadsOnlyWrittenEntries := by
  intro s h hr i hi
  obtain ⟨-, h65⟩ := mem_decodeIndices hi
  obtain ⟨u, hu⟩ := exists_read_of_ready h hr (i := i - 1) (by omega)
  obtain ⟨v, hv⟩ := exists_read_of_ready h hr (i := i) (by omega)
  exact ⟨u, v, hu, hv, entryAt_of_read _ _ _ hu, entryAt_of_read _ _ _ hv, magnitude_of_read h hu, magnitude_of_read h hv⟩

end Sys2Proof.Proofs.MemoryFamily
end

section
/-! The family of 30_encoding.md: beat words and commands, the rows of the opcode table, the written stimulus lines, and the
cycle that runs the presented command. -/

namespace Sys2Proof.Proofs.EncodingFamily

open Sys2Proof Sys2Proof.Machine Sys2Proof.Proofs.StateFamily

/-! ## A beat word and its fields -/

@[simp] theorem toBit_ofBit (b : BitVec 1) : (Level.ofBit b).toBit = b := by revert b; decide

/-- Every beat word is `op ‖ pin_level ‖ now` (30_encoding.md R47). -/
theorem fields_append (w : BeatWord) : (wordOp w ++ (wordPin w).toBit ++ wordNow w : BeatWord) = w := by
  apply BitVec.eq_of_getLsbD_eq
  intro k hk
  rw [getLsbD_fields]
  simp only [wordOp, wordPin, wordNow, toBit_ofBit, BitVec.getLsbD_extractLsb']
  split_ifs with hnow hpin
  · simp [hnow]
  · have hk32 : k = 32 := by omega
    simp [hk32]
  · have hop : k - 33 < 3 := by omega
    have hadd : 33 + (k - 33) = k := by omega
    simp [hop, hadd]

/-- A mask that keeps the whole of `op` acts on the other two fields one by one. -/
theorem and_fields (w : BeatWord) (p : BitVec 1) (n : Time) :
    w &&& (0b111#3 ++ p ++ n : BeatWord) = (wordOp w ++ ((wordPin w).toBit &&& p) ++ (wordNow w &&& n) : BeatWord) := by
  have hop : wordOp w &&& 0b111#3 = wordOp w := BitVec.and_allOnes
  have hhigh : ((wordOp w ++ (wordPin w).toBit) &&& (0b111#3 ++ p)) = wordOp w ++ ((wordPin w).toBit &&& p) := by
    rw [BitVec.and_append, hop]
  calc w &&& (0b111#3 ++ p ++ n : BeatWord)
    _ = (wordOp w ++ (wordPin w).toBit ++ wordNow w : BeatWord) &&& (0b111#3 ++ p ++ n : BeatWord) := by
      rw [fields_append]
    _ = ((wordOp w ++ (wordPin w).toBit) &&& (0b111#3 ++ p)) ++ (wordNow w &&& n) := BitVec.and_append
    _ = (wordOp w ++ ((wordPin w).toBit &&& p) ++ (wordNow w &&& n) : BeatWord) := by rw [hhigh]

/-! ## Decoding and encoding -/

/-- Every number below 2^36 is accepted (30_encoding.md R49). -/
theorem decode_toNat (w : BeatWord) : decode w.toNat = .ok (decodeWord w) := by
  rw [decode, if_pos w.isLt, BitVec.ofNat_toNat, BitVec.setWidth_eq]

/-- The three fields of the beat word select the command again, with its operands. -/
theorem decodeWord_encode (i : Instr) : decodeWord (encode i) = i := by
  simp only [decodeWord, wordOp_encode, wordPin_encode, wordNow_encode]
  cases i with
  | init pin => exact congrArg Instr.init (ofBit_toBit pin)
  | poll pin now => exact congrArg (Instr.poll · now) (ofBit_toBit pin)
  | nop | isReady | decode | reset | reserved110 | reserved111 => rfl

theorem canonicalWord_encode (i : Instr) : canonicalWord (encode i) := by
  have hcanonical : Laws.EncodeCanonical.Statement i := by
    cases i with
    | nop => exact Laws.EncodeCanonical.nop
    | init pin => exact Laws.EncodeCanonical.init pin
    | poll pin now => exact Laws.EncodeCanonical.poll pin now
    | isReady => exact Laws.EncodeCanonical.isReady
    | decode => exact Laws.EncodeCanonical.decode
    | reset => exact Laws.EncodeCanonical.reset
    | reserved110 => exact Laws.EncodeCanonical.reserved110
    | reserved111 => exact Laws.EncodeCanonical.reserved111
  exact hcanonical.2

/-- Settles O2. -/
theorem decodeOfEncodeIsTheCommand : Obligations.DecodeOfEncodeIsTheCommand := by
  intro i
  refine ⟨?_, canonicalWord_encode i⟩
  rw [decode_toNat, decodeWord_encode]

theorem decodeWord_of_encode_eq {w : BeatWord} {i : Instr} (h : encode i = w) : decodeWord w = i := h ▸ decodeWord_encode i

/-- Settles O5: each word is the canonical word of its command. -/
theorem writtenOutWordsDecode : Obligations.WrittenOutWordsDecode := by
  refine ⟨?_, ?_, ?_, ?_, ?_, ?_, ?_, ?_, ?_⟩ <;> exact decodeWord_of_encode_eq rfl

/-- The canonical word of a beat: `op`, and the ports that the command of this code uses (30_encoding.md R45, R47). -/
theorem encode_decodeBeat (op : OpCode) (pin : Level) (now : Time) :
    encode (decodeBeat op pin now) =
      if op = 0b001#3 then (op ++ pin.toBit ++ 0#32 : BeatWord)
      else if op = 0b010#3 then (op ++ pin.toBit ++ now : BeatWord)
      else (op ++ 0#1 ++ 0#32 : BeatWord) := by
  have hop : op = 0b000#3 ∨ op = 0b001#3 ∨ op = 0b010#3 ∨ op = 0b011#3 ∨ op = 0b100#3 ∨ op = 0b101#3 ∨ op = 0b110#3 ∨
      op = 0b111#3 := by revert op; decide
  rcases hop with rfl | rfl | rfl | rfl | rfl | rfl | rfl | rfl <;> rfl

theorem and_opMask (w : BeatWord) : w &&& 0xE00000000#36 = (wordOp w ++ 0#1 ++ 0#32 : BeatWord) := by
  have h := and_fields w 0#1 0#32
  rwa [BitVec.and_zero, BitVec.and_zero] at h

theorem and_initMask (w : BeatWord) :
    w &&& 0xF00000000#36 = (wordOp w ++ (wordPin w).toBit ++ 0#32 : BeatWord) := by
  have h := and_fields w 1#1 0#32
  have hpin : (wordPin w).toBit &&& 1#1 = (wordPin w).toBit := BitVec.and_allOnes
  rwa [BitVec.and_zero, hpin] at h

/-- Settles O3: the three masks of `usedMask`, field by field. -/
theorem encodeOfDecodeClearsUnusedBits : Obligations.EncodeOfDecodeClearsUnusedBits := by
  intro w
  rw [decodeWord, encode_decodeBeat, usedMask]
  split_ifs with hinit hpoll
  · exact (and_initMask w).symm
  · exact (fields_append w).trans BitVec.and_allOnes.symm
  · exact (and_opMask w).symm

/-! ## The opcode table -/

/-- The row of a command: its code in `op`, and 0 in every bit outside the mask (30_encoding.md R52). -/
def rowOf (i : Instr) : TableRow := ⟨i.mnemonic, i.opBits ++ 0#1 ++ 0#32, 0xE00000000#36⟩

theorem rowOf_mem (i : Instr) : rowOf i ∈ opcodeTable := by
  cases i <;> simp only [rowOf, Instr.mnemonic, Instr.opBits] <;> decide

/-- Every row compares `op` and nothing else. -/
theorem mask_of_mem {r : TableRow} (h : r ∈ opcodeTable) : r.mask = 0xE00000000#36 := by
  have hall : ∀ r ∈ opcodeTable, r.mask = 0xE00000000#36 := by decide
  exact hall r h

theorem eq_of_pattern_eq {r r' : TableRow} (h : r ∈ opcodeTable) (h' : r' ∈ opcodeTable) (he : r.pattern = r'.pattern) :
    r = r' := by
  have hall : ∀ r ∈ opcodeTable, ∀ r' ∈ opcodeTable, r.pattern = r'.pattern → r = r' := by decide
  exact hall r h r' h' he

theorem and_mask_rowOf (w : BeatWord) : w &&& (rowOf (decodeWord w)).mask = (rowOf (decodeWord w)).pattern := by
  have hop : (decodeWord w).opBits = wordOp w := opBits_decodeBeat _ _ _
  rw [rowOf, hop]
  exact and_opMask w

/-- Settles O4: the row is that of the decoded command; all rows have one mask, so a row that also matches has the same
pattern. -/
theorem everyWordHasExactlyOneTableRow : Obligations.EveryWordHasExactlyOneTableRow := by
  intro w
  refine ⟨rowOf (decodeWord w), rowOf_mem _, and_mask_rowOf w, rfl, fun r hr hmatch => ?_⟩
  rw [mask_of_mem hr] at hmatch
  exact eq_of_pattern_eq hr (rowOf_mem _) (hmatch.symm.trans (and_mask_rowOf w))

/-! ## Written lines -/

/-- A well-formed line gives no `pin=` to a command without that operand (30_encoding.md R50). -/
theorem pin_eq_none {m : Mnemonic} {pin : Option Level} {now : Option Nat} (h : (Line.beat m pin now).wellFormed = true)
    (hm : m.takesPin = false) : pin = none := by
  simp only [Line.wellFormed, Line.pinWhereTaken, hm, Bool.and_eq_true, Bool.or_false] at h
  obtain ⟨⟨hpin, -⟩, -⟩ := h
  exact Option.isNone_iff_eq_none.mp hpin

/-- A well-formed line gives no `now=` to a command without that operand (30_encoding.md R50). -/
theorem now_eq_none {m : Mnemonic} {pin : Option Level} {now : Option Nat} (h : (Line.beat m pin now).wellFormed = true)
    (hm : m.takesNow = false) : now = none := by
  simp only [Line.wellFormed, Line.nowWhereTaken, hm, Bool.and_eq_true, Bool.or_false] at h
  obtain ⟨⟨-, hnow⟩, -⟩ := h
  exact Option.isNone_iff_eq_none.mp hnow

/-- The cycle that presents a command's beat word carries its code and its canonical operands. -/
theorem ofWord_encode (i : Instr) :
    Cycle.ofWord (encode i) = ⟨false, i.opBits, Level.ofBit i.pinBit, i.nowBits⟩ := by
  simp [Cycle.ofWord]

/-- Settles O6: with the operands a command does not take omitted, the fields of the line are those of `encode`. -/
theorem stimulusLinesStandForTheirBeats : Obligations.StimulusLinesStandForTheirBeats := by
  refine ⟨fun m pin now h => ?_, ?_, fun n => ?_⟩
  · cases m with
    | nop | isReady | decode | reset =>
      obtain rfl := pin_eq_none h rfl
      obtain rfl := now_eq_none h rfl
      rfl
    | init =>
      obtain rfl := now_eq_none h rfl
      rfl
    | poll => rfl
  · calc programCycles [.drain]
      _ = [Cycle.ofWord (encode .decode), Cycle.ofWord (encode .reset)] := rfl
      _ = _ := by rw [ofWord_encode, ofWord_encode]; rfl
  · calc programCycles [.idle n]
      _ = (List.replicate n (encode .nop)).map Cycle.ofWord := by simp [programCycles, Line.words]
      _ = List.replicate n (Cycle.ofWord (encode .nop)) := List.map_replicate
      _ = _ := by rw [ofWord_encode]; rfl

/-! ## The cycle -/

theorem step_of_beat {s : State} (h : s.currentCycle.rst = false) :
    step s = exec (decodeBeat s.currentCycle.op s.currentCycle.pinLevel s.currentCycle.now) s.takeCycle :=
  if_neg (by simp [h])

/-- The decoder at a table word reads that word's beat word. -/
theorem decodeWord_of_decodeTableWord {nbits w : Nat} {i : Instr} (h : decodeTableWord nbits w = some i) :
    decodeWord (BitVec.ofNat 36 (w % 2 ^ nbits)) = i := by
  by_cases hlt : w % 2 ^ nbits < 2 ^ 36
  · rw [decodeTableWord, decode, if_pos hlt] at h
    exact Option.some.inj h
  · rw [decodeTableWord, decode, if_neg hlt] at h
    exact absurd h (by simp)

/-- Settles O7. -/
theorem stepRunsThePresentedCommand : Obligations.StepRunsThePresentedCommand := by
  refine ⟨fun s c rest hin hrst => ?_, fun s nbits w i hi => ?_⟩
  · have hcycle : s.currentCycle = c := by simp [State.currentCycle, hin]
    have htake : s.takeCycle = { s with inputs := rest } := by simp [State.takeCycle, hin]
    rw [step_of_beat (hcycle ▸ hrst), hcycle, htake]
  · obtain rfl := decodeWord_of_decodeTableWord hi
    exact step_of_beat (s := s.withFetchWord nbits w) rfl

/-- An edge takes no further sample. -/
@[simp] theorem pollEdge_inputs (c : Config) (now : Time) (s : State) : (pollEdge c now s).inputs = s.inputs := by
  simp [pollEdge]

@[simp] theorem pollNext_inputs (c : Config) (pin : Level) (now : Time) (s : State) :
    (pollNext c pin now s).inputs = s.inputs := by
  obtain ⟨-, hu⟩ | ⟨-, -, hu⟩ | ⟨-, -, hu⟩ := pollNext_cases c pin now s <;> simp [hu]

/-- Every command completes and leaves the coming cycles to the host (60_exceptions.md R87). -/
theorem exec_next_inputs (i : Instr) (s : State) : ∃ t, exec i s = .next t ∧ t.inputs = s.inputs := by
  cases i with
  | poll pin now => exact ⟨_, exec_poll s pin now, pollNext_inputs cfg pin now s⟩
  | nop | init | isReady | decode | reset | reserved110 | reserved111 => exact ⟨_, rfl, rfl⟩

/-- Every cycle completes and takes one sample of the ports (30_encoding.md R43). -/
theorem step_next_inputs (s : State) : ∃ t, step s = .next t ∧ t.inputs = s.inputs.tail := by
  obtain ⟨-, hstep⟩ | ⟨-, hstep⟩ := step_cases s <;> rw [hstep]
  · exact ⟨_, rfl, rfl⟩
  · exact exec_next_inputs _ s.takeCycle

/-- Settles O10, by induction on the number of cycles. -/
theorem noRunEverStops : Obligations.NoRunEverStops := by
  intro n
  induction n with
  | zero => exact fun s => ⟨s, rfl, rfl⟩
  | succ n ih =>
    intro s
    obtain ⟨u, hu, hinputs⟩ := step_next_inputs s
    obtain ⟨t, ht, hrest⟩ := ih u
    refine ⟨t, (run_succ n hu).trans ht, ?_⟩
    rw [hrest, hinputs, List.drop_tail]

/-! ## The commands that move only the port `result` -/

/-- Settles O33. -/
theorem isReadyReturnsTheReadyFlag : Obligations.IsReadyReturnsTheReadyFlag := by
  intro s
  have hzext : (BitVec.ofBool s.ready).setWidth 32 = if s.ready then 1#32 else 0#32 := by cases s.ready <;> rfl
  refine ⟨?_, Iff.rfl⟩
  rw [exec_isReady, hzext]
  rfl

/-- Settles O46. -/
theorem nopAndReservedCodesDoNothing : Obligations.NopAndReservedCodesDoNothing :=
  fun s => ⟨exec_nop s, exec_reserved110 s, exec_reserved111 s⟩

end Sys2Proof.Proofs.EncodingFamily
end

section
/-! The family of 40_initialize.md: what INIT writes and what it leaves unchanged. -/

namespace Sys2Proof.Proofs.InitializeFamily

open Sys2Proof Sys2Proof.Machine

/-- A sample passed on at once loads both level registers and leaves every other element (40_initialize.md R54; the same
write ends a POLL without an edge, 41_poll.md R59). -/
theorem sample_passLevel (s : State) (pin : Level) :
    (s.sample pin).passLevel = { s with levelCurrent := pin, levelPrevious := pin } := rfl

/-- Settles O18: INIT is the sample passed on at once, and drives 0. -/
theorem initLoadsBothLevelsOnly : Obligations.InitLoadsBothLevelsOnly := by
  intro pin s
  rw [exec_init, sample_passLevel, State.drive]

end Sys2Proof.Proofs.InitializeFamily
end

section
/-! The family of 41_poll.md: the classes of an edge, the entry it stores, each way of a POLL with its whole next state, the
freeze of a Ready capture, and a capture from its first pulse to Ready. -/

namespace Sys2Proof.Proofs.PollFamily

open Sys2Proof Sys2Proof.Machine Sys2Proof.Proofs.Scope Sys2Proof.Proofs.StateFamily Sys2Proof.Proofs.EncodingFamily
  Sys2Proof.Proofs.InitializeFamily

/-! ## The elapsed time and its class -/

/-- Settles O23. -/
theorem elapsedTimeIsTheModularDifference : Obligations.ElapsedTimeIsTheModularDifference :=
  fun now last => ⟨elapsed_toNat now last, fun hle => elapsed_of_le hle now.isLt⟩

/-- Settles O24: the classifier answers one of the four classes with its condition, and while
`DURATION_MIN < DURATION_MAX` no two of the conditions hold together. -/
theorem edgeClassesAreDisjointAndCover : Obligations.EdgeClassesAreDisjointAndCover := by
  rintro c dt idle ⟨⟨hthresholds, -⟩, -⟩
  obtain ⟨hk, hmax, hi⟩ | ⟨hk, hmin, hmax⟩ | ⟨hk, hmin⟩ | ⟨hk, hmax, hi⟩ := classify_cases c dt idle <;> rw [hk]
  · simp [hmax, hi, hthresholds.trans_le hmax]
  · simp [hmax, hmin]
  · simp [hmin, hmin.trans_lt hthresholds]
  · simp [hmax, hi, hthresholds.trans_le hmax]

/-! ## The stored entry -/

theorem entryValue_high (c : Config) (dt : Nat) : entryValue c .high dt = (saturate c dt : Int) := rfl

theorem entryValue_low (c : Config) (dt : Nat) : entryValue c .low dt = -(saturate c dt : Int) := rfl

/-- Saturation keeps the entry in the range of `DW`-bit two's complement (41_poll.md R61, R72). -/
theorem saturate_lt (c : Config) (dt : Nat) : saturate c dt < 2 ^ (c.dw - 1) := by
  have hle : saturate c dt ≤ 2 ^ (c.dw - 1) - 1 := Nat.min_le_right _ _
  have hpos : 0 < 2 ^ (c.dw - 1) := Nat.two_pow_pos _
  omega

theorem toInt_ofInt_entryValue {c : Config} (hdw : 2 ≤ c.dw) (l : Level) (dt : Nat) :
    (BitVec.ofInt c.dw (entryValue c l dt)).toInt = entryValue c l dt := by
  have hsat : (saturate c dt : Int) < 2 ^ (c.dw - 1) := by exact_mod_cast saturate_lt c dt
  cases l with
  | high => rw [entryValue_high]; exact BitVec.toInt_ofInt_eq_self (by omega) (by omega) hsat
  | low => rw [entryValue_low]; exact BitVec.toInt_ofInt_eq_self (by omega) (by omega) (by omega)

/-- Settles O25: the saturated duration lies in the symmetric range, so either sign of it is exact. -/
theorem entryValueIsSaturatedAndExact : Obligations.EntryValueIsSaturatedAndExact := by
  rintro c dt ⟨-, -, ⟨-, hdw, -⟩, -⟩
  refine ⟨?_, rfl, fun l => toInt_ofInt_entryValue hdw l dt⟩
  rw [entryValue_high, saturate, dmaxMag, Nat.cast_min]

/-- The entry of a valid pulse is its signed duration, which saturation leaves as it is (41_poll.md R61, R62). -/
theorem toInt_storedEntry (l : Level) {dt : Nat} (h : dt < 10000) :
    (storedEntry cfg l dt).toInt = if l = .high then (dt : Int) else -(dt : Int) := by
  have hexact : (storedEntry cfg l dt).toInt = entryValue cfg l dt := toInt_ofInt_entryValue (c := cfg) (by decide) l dt
  have hsat : saturate cfg dt = dt := saturate_of_lt_durationMax h
  cases l with
  | high => rw [hexact, entryValue_high, hsat, if_pos rfl]
  | low => rw [hexact, entryValue_low, hsat, if_neg (by decide)]

/-! ## The three ways of POLL -/

theorem pollNext_of_ready {c : Config} {pin : Level} {now : Time} {s : State} (hr : s.ready = true) :
    pollNext c pin now s = s := if_pos hr

theorem pollNext_of_noEdge {c : Config} {pin : Level} {now : Time} {s : State} (hr : s.ready = false)
    (hp : pin = s.levelPrevious) : pollNext c pin now s = (s.sample pin).passLevel := by
  simp [pollNext, pollSample, hr, hp]

theorem pollNext_of_edge {c : Config} {pin : Level} {now : Time} {s : State} (hr : s.ready = false)
    (hp : pin ≠ s.levelPrevious) : pollNext c pin now s = pollEdge c now (s.sample pin) := by
  simp [pollNext, pollSample, hr, hp]

/-- Settles O19. -/
theorem pollWhileReadyIsInert : Obligations.PollWhileReadyIsInert := by
  intro pin now s hr
  rw [exec_poll, pollNext_of_ready hr, State.drive]

/-- Settles O20. -/
theorem pollWithoutEdgeOnlySamples : Obligations.PollWithoutEdgeOnlySamples := by
  intro pin now s hr hp
  rw [exec_poll, pollNext_of_noEdge hr hp, sample_passLevel, State.drive]

/-! ## The classes of an edge -/

/-- Settles O26: after the clear `fill_index` is 0, so the latch leaves `ready`. -/
theorem gapAbandonsTheCapture : Obligations.GapAbandonsTheCapture := by
  intro pin now s hr hp hi hdt
  rw [exec_poll, pollNext_of_edge hr hp, pollEdge_gap (s := s.sample pin) hi hdt, latchReady_of_ne _ _ (by simp)]
  rfl

/-- Settles O27: what is left of the edge is the time origin, the level and the latch. -/
theorem ignoredEdgeMovesOnlyTimeAndLevels : Obligations.IgnoredEdgeMovesOnlyTimeAndLevels := by
  intro pin now s hr hp hdt
  have hedge : pollEdge cfg now (s.sample pin) =
      State.latchReady cfg (((s.sample pin).setTimeOrigin now).passLevel) := pollEdge_ignored (by decide) hdt
  rw [exec_poll, pollNext_of_edge hr hp, hedge, latchReady_of_not_ready]
  · rfl
  · exact hr

theorem appendPulse_of_room {c : Config} {s : State} (dt : Nat) (hroom : s.fillIndex.toNat < c.capacity) :
    s.appendPulse c dt =
      (s.writeEntry s.fillIndex.toNat (storedEntry c s.levelCurrent dt)).setFillIndex (s.fillIndex + 1#7) := if_pos hroom

/-- Settles O28: with room the append writes its entry at the old `fill_index` and advances it, and the latch tests the
advanced one. -/
theorem validPulseAppendsOneEntry : Obligations.ValidPulseAppendsOneEntry := by
  intro pin now s hr hp h1 h2 hroom
  have hsucc : (s.fillIndex + 1#7).toNat = s.fillIndex.toNat + 1 := fillIndex_succ hroom
  refine ⟨_, exec_poll s pin now, ?_⟩
  rw [pollNext_of_edge hr hp, pollEdge_validPulse (s := s.sample pin) h1 h2, appendPulse_of_room _ hroom]
  refine ⟨?entry, fun k hk => ?others, ?fill, ?_, ?_, ?_, ?_, ?latch, ?_, ?_, ?_⟩
  case entry => simp [toInt_storedEntry pin h2]
  case others => simp [entryAt_writeEntry_other _ _ _ _ hk]
  case fill => simp [hsucc]
  case latch => simp [hsucc, hr]
  all_goals simp

/-! ## The ready latch -/

/-- An edge while not ready ends with `ready` exactly at capacity (41_poll.md R70). -/
theorem pollEdge_ready_iff (c : Config) (now : Time) {s : State} (hr : s.ready = false) :
    (pollEdge c now s).ready = true ↔ (pollEdge c now s).fillIndex.toNat = c.capacity := by
  simp [pollEdge, hr]

/-- Settles O30: the clauses follow the three ways of POLL; the pulse that writes entry 65 is O28's. -/
theorem readyLatchesExactlyAtCapacity : Obligations.ReadyLatchesExactlyAtCapacity := by
  intro pin now s
  refine ⟨_, exec_poll s pin now, fun hr hp => ?edge, fun hr hp => ?noEdge, fun hr hp h1 h2 hlast => ?last,
    fun hr => ?kept, fun hr pin' now' => ⟨_, pollWhileReadyIsInert pin' now' _ hr, rfl⟩⟩
  case edge =>
    rw [pollNext_of_edge hr hp]
    exact pollEdge_ready_iff cfg now hr
  case noEdge => rw [pollNext_of_noEdge hr hp]; exact hr
  case last =>
    have hdt : elapsed cfg now.toNat s.timeLastEdge.toNat = now.toNat - s.timeLastEdge.toNat :=
      elapsed_of_le (by omega) now.isLt
    obtain ⟨t, ht, -, -, -, -, -, -, -, hready, -⟩ :=
      validPulseAppendsOneEntry pin now s hr hp (by omega) (by omega) (by omega)
    cases ht
    exact hready.mpr hlast
  case kept => rw [pollNext_of_ready hr]; exact hr

/-! ## The freeze of a Ready capture -/

/-- What stays from Ready until RESET or hardware reset: all but the levels, `result` and the coming cycles. -/
structure SameCapture (s t : State) : Prop where
  ready : t.ready = s.ready
  fillIndex : t.fillIndex = s.fillIndex
  idle : t.idle = s.idle
  timeLastEdge : t.timeLastEdge = s.timeLastEdge
  buffer : t.buffer = s.buffer
  resetCount : t.resetCount = s.resetCount

theorem SameCapture.refl (s : State) : SameCapture s s := ⟨rfl, rfl, rfl, rfl, rfl, rfl⟩

theorem SameCapture.trans {s t u : State} (h : SameCapture s t) (h' : SameCapture t u) : SameCapture s u :=
  ⟨h'.ready.trans h.ready, h'.fillIndex.trans h.fillIndex, h'.idle.trans h.idle, h'.timeLastEdge.trans h.timeLastEdge,
    h'.buffer.trans h.buffer, h'.resetCount.trans h.resetCount⟩

theorem SameCapture.entryAt {s t : State} (h : SameCapture s t) (k : Nat) : t.entryAt k = s.entryAt k := by
  simp only [State.entryAt, h.buffer, h.resetCount]

/-- The cycle is neither a hardware reset nor a beat of RESET. -/
def KeepsReady (c : Cycle) : Prop := c.rst = false ∧ c.op ≠ 0b101#3

/-- Every command but RESET keeps a Ready capture (41_poll.md R57, 42_query.md R80). -/
theorem sameCapture_exec {i : Instr} {s t : State} (hr : s.ready = true) (hi : i ≠ .reset) (hx : exec i s = .next t) :
    SameCapture s t := by
  obtain ⟨pin, -, rfl⟩ | ⟨pin, now, -, rfl⟩ | ⟨hreset, -⟩ | ⟨r, rfl⟩ := exec_cases hx
  · exact ⟨rfl, rfl, rfl, rfl, rfl, rfl⟩
  · rw [pollNext_of_ready hr]
    exact ⟨rfl, rfl, rfl, rfl, rfl, rfl⟩
  · exact absurd hreset hi
  · exact ⟨rfl, rfl, rfl, rfl, rfl, rfl⟩

theorem sameCapture_step {s t : State} (hr : s.ready = true) (hc : KeepsReady s.currentCycle) (hx : step s = .next t) :
    SameCapture s t := by
  obtain ⟨hrst, hop⟩ := hc
  rw [step_of_beat hrst] at hx
  have htake : SameCapture s s.takeCycle := ⟨rfl, rfl, rfl, rfl, rfl, rfl⟩
  exact htake.trans (sameCapture_exec hr (fun hi => hop (op_of_decodeBeat_eq hi)) hx)

/-- The next cycle is the first one presented, or the undriven one, a NOP beat (log entry 2). -/
theorem keepsReady_currentCycle {s : State} {n : Nat} (h : ∀ c ∈ s.inputs.take (n + 1), KeepsReady c) :
    KeepsReady s.currentCycle := by
  cases hin : s.inputs with
  | nil =>
    rw [State.currentCycle, hin]
    exact ⟨rfl, by decide⟩
  | cons c cs =>
    rw [State.currentCycle, hin]
    exact h c (by simp [hin])

/-- A Ready capture stays through any run of such cycles, by induction on their number. -/
theorem sameCapture_run {n : Nat} {s t : State} (hr : s.ready = true) (hc : ∀ c ∈ s.inputs.take n, KeepsReady c)
    (hx : run n s = .next t) : SameCapture s t := by
  induction n generalizing s with
  | zero => cases hx; exact .refl _
  | succ n ih =>
    obtain ⟨u, hu, hinputs⟩ := step_next_inputs s
    have hsu : SameCapture s u := sameCapture_step hr (keepsReady_currentCycle hc) hu
    rw [run_succ n hu] at hx
    have htail : u.inputs.take n = (s.inputs.take (n + 1)).tail := by
      rw [hinputs, List.tail_take_eq_take_tail, Nat.add_sub_cancel]
    exact hsu.trans (ih (hsu.ready.trans hr) (fun c hmem => hc c (List.mem_of_mem_tail (htail ▸ hmem))) hx)

/-- Settles O43: DECODE shows only `ready` and the entries, which stay. -/
theorem readyFreezesTheCapture : Obligations.ReadyFreezesTheCapture := by
  intro n s hr hc
  obtain ⟨t, ht, -⟩ := noRunEverStops n s
  have hst : SameCapture s t := sameCapture_run hr hc ht
  have hdecoded : t.decoded cfg = s.decoded cfg := decoded_congr hst.ready fun _ k _ _ => by rw [hst.entryAt]
  refine ⟨t, ht, hst.ready.trans hr, hst.fillIndex, hst.idle, hst.timeLastEdge, hst.buffer, _, _, exec_decode s,
    exec_decode t, ?_⟩
  rw [drive_result, drive_result, hdecoded]

/-! ## A whole capture -/

section samples
variable {level pin : Level} {last now : Time} {idle : Bool} (samples : List (Level × Time))

theorem pulseDurations_noEdge (hp : pin = level) :
    pulseDurations level last ((pin, now) :: samples) = pulseDurations level last samples := if_pos hp

theorem pulseDurations_validPulse (hp : pin ≠ level) (h1 : 400 < elapsed cfg now.toNat last.toNat)
    (h2 : elapsed cfg now.toNat last.toNat < 10000) :
    pulseDurations level last ((pin, now) :: samples) =
      (if pin = .high then (elapsed cfg now.toNat last.toNat : Int) else -(elapsed cfg now.toNat last.toNat : Int)) ::
        pulseDurations pin now samples :=
  (if_neg hp).trans (if_pos ⟨h1, h2⟩)

theorem pulseDurations_ignored (hp : pin ≠ level)
    (h : elapsed cfg now.toNat last.toNat ≤ 400 ∨ (10000 ≤ elapsed cfg now.toNat last.toNat ∧ idle = true)) :
    pulseDurations level last ((pin, now) :: samples) = pulseDurations pin now samples :=
  (if_neg hp).trans (if_neg fun ⟨h1, h2⟩ => by simp only at h1 h2; omega)

theorem noGap_noEdge (hp : pin = level) : noGap idle level last ((pin, now) :: samples) = noGap idle level last samples :=
  if_pos hp

/-- At an edge a sequence without a gap goes on as a valid pulse, which clears `idle`, or as an ignored edge. -/
theorem noGap_edge_cases (hp : pin ≠ level) (h : noGap idle level last ((pin, now) :: samples) = true) :
    (400 < elapsed cfg now.toNat last.toNat ∧ elapsed cfg now.toNat last.toNat < 10000 ∧
      noGap false pin now samples = true) ∨
    ((elapsed cfg now.toNat last.toNat ≤ 400 ∨ (10000 ≤ elapsed cfg now.toNat last.toNat ∧ idle = true)) ∧
      noGap idle pin now samples = true) := by
  rw [noGap, if_neg hp] at h
  obtain ⟨hk, -⟩ | ⟨hk, h1, h2⟩ | ⟨hk, h1⟩ | ⟨hk, h1, hi⟩ :=
    classify_cases cfg (elapsed cfg now.toNat last.toNat) idle <;> rw [hk] at h
  · exact absurd h Bool.false_ne_true
  · exact .inl ⟨h1, h2, h⟩
  · exact .inr ⟨.inl h1, h⟩
  · exact .inr ⟨.inr ⟨h1, hi⟩, h⟩

end samples

/-- `t` is Ready with `durations` stored from the `fill_index` of `s` on, over the older entries of `s`. -/
structure FilledFrom (s t : State) (durations : List Int) : Prop where
  ready : t.ready = true
  full : t.fillIndex.toNat = 66
  older : ∀ k, k < s.fillIndex.toNat → t.entryAt k = s.entryAt k
  newer : ∀ k v, durations[k]? = some v → (t.entryAt (s.fillIndex.toNat + k)).toInt = v

/-- A full buffer to which nothing is added. -/
theorem FilledFrom.of_sameCapture {s t : State} (h : SameCapture s t) (hr : s.ready = true) (hf : s.fillIndex.toNat = 66) :
    FilledFrom s t [] :=
  ⟨h.ready.trans hr, by rw [h.fillIndex, hf], fun k _ => h.entryAt k, nofun⟩

/-- A beat that leaves `fill_index` and the entries does not show in what is filled. -/
theorem FilledFrom.of_unchanged {s u t : State} {durations : List Int} (h : FilledFrom u t durations)
    (hf : u.fillIndex = s.fillIndex) (he : ∀ k, u.entryAt k = s.entryAt k) : FilledFrom s t durations where
  ready := h.ready
  full := h.full
  older k hk := (h.older k (by rwa [hf])).trans (he k)
  newer := hf ▸ h.newer

/-- A beat that appends an entry puts it in front of what is filled after it. -/
theorem FilledFrom.of_append {s u t : State} {durations : List Int} (h : FilledFrom u t durations)
    (hf : u.fillIndex.toNat = s.fillIndex.toNat + 1) (he : ∀ k, k ≠ s.fillIndex.toNat → u.entryAt k = s.entryAt k) :
    FilledFrom s t ((u.entryAt s.fillIndex.toNat).toInt :: durations) where
  ready := h.ready
  full := h.full
  older k hk := (h.older k (by omega)).trans (he k (by omega))
  newer k v hv := by
    cases k with
    | zero =>
      obtain rfl : (u.entryAt s.fillIndex.toNat).toInt = v := by simpa using hv
      rw [Nat.add_zero, h.older _ (by omega)]
    | succ k =>
      have hk : s.fillIndex.toNat + (k + 1) = u.fillIndex.toNat + k := by omega
      rw [hk]
      exact h.newer k v (by simpa using hv)

theorem keepsReady_pollCycles {c : Cycle} {samples : List (Level × Time)} (h : c ∈ pollCycles samples) : KeepsReady c := by
  obtain ⟨x, -, rfl⟩ := List.mem_map.mp h
  have hop : (0b010#3 : OpCode) ≠ 0b101#3 := by decide
  exact ⟨rfl, hop⟩

@[simp] theorem pollCycles_length (samples : List (Level × Time)) : (pollCycles samples).length = samples.length :=
  List.length_map _

/-- The next cycle of a sequence of POLL beats is the POLL of its first sample. -/
theorem step_pollCycles {s : State} {pin : Level} {now : Time} {samples : List (Level × Time)} {rest : List Cycle}
    (hin : s.inputs = pollCycles ((pin, now) :: samples) ++ rest) :
    step s = exec (.poll pin now) { s with inputs := pollCycles samples ++ rest } :=
  stepRunsThePresentedCommand.1 s ⟨false, 0b010#3, pin, now⟩ _ hin rfl

/-- The signed durations of the valid pulses that a state finds in the samples to come. -/
def pulsesFrom (s : State) (samples : List (Level × Time)) : List Int :=
  pulseDurations s.levelPrevious s.timeLastEdge samples

/-- A state finds no gap in the samples to come. -/
def GapFree (s : State) (samples : List (Level × Time)) : Prop :=
  noGap s.idle s.levelPrevious s.timeLastEdge samples = true

/-- The first sample of a sequence without a gap leaves the capture as it is, or appends the first of the pulses. -/
theorem step_of_gapFree {s : State} {pin : Level} {now : Time} {samples : List (Level × Time)} {rest : List Cycle}
    (hr : s.ready = false) (hroom : s.fillIndex.toNat < 66) (hgap : GapFree s ((pin, now) :: samples))
    (hin : s.inputs = pollCycles ((pin, now) :: samples) ++ rest) :
    ∃ u, step s = .next u ∧ u.inputs = pollCycles samples ++ rest ∧ GapFree u samples ∧
      ((u.ready = false ∧ u.fillIndex = s.fillIndex ∧ (∀ k, u.entryAt k = s.entryAt k) ∧
          pulsesFrom s ((pin, now) :: samples) = pulsesFrom u samples) ∨
        (u.fillIndex.toNat = s.fillIndex.toNat + 1 ∧ (u.ready = true ↔ s.fillIndex.toNat = 65) ∧
          (∀ k, k ≠ s.fillIndex.toNat → u.entryAt k = s.entryAt k) ∧
          pulsesFrom s ((pin, now) :: samples) = (u.entryAt s.fillIndex.toNat).toInt :: pulsesFrom u samples)) := by
  rw [step_pollCycles hin]
  by_cases hp : pin = s.levelPrevious
  case pos =>
    refine ⟨_, pollWithoutEdgeOnlySamples pin now _ hr hp, rfl, ?_, .inl ⟨hr, rfl, fun _ => rfl, ?_⟩⟩
    · subst hp; exact (noGap_noEdge samples rfl).symm.trans hgap
    · subst hp; exact pulseDurations_noEdge samples rfl
  case neg =>
    obtain ⟨h1, h2, hrest⟩ | ⟨hdt, hrest⟩ := noGap_edge_cases samples hp hgap
    · obtain ⟨u, hu, hentry, hothers, hsucc, hidle, htime, -, hlevel, hlatch, -, hinputs, -⟩ :=
        validPulseAppendsOneEntry pin now { s with inputs := pollCycles samples ++ rest } hr hp h1 h2 hroom
      refine ⟨u, hu, hinputs, ?_, .inr ⟨hsucc, hlatch, hothers, ?_⟩⟩
      · rw [GapFree, hidle, hlevel, htime]; exact hrest
      · rw [pulsesFrom, pulsesFrom, hlevel, htime, hentry]; exact pulseDurations_validPulse samples hp h1 h2
    · have hnotFull : s.fillIndex.toNat ≠ 66 := by omega
      exact ⟨_, ignoredEdgeMovesOnlyTimeAndLevels pin now _ hr hp hdt, rfl, hrest,
        .inl ⟨decide_eq_false hnotFull, rfl, fun _ => rfl, pulseDurations_ignored samples hp hdt⟩⟩

/-- The run of a capture, by induction on the samples: each leaves the capture as it is or appends one pulse, and the one
that fills the buffer latches `ready`, after which the capture stays. -/
theorem filledFrom_run {samples : List (Level × Time)} {rest : List Cycle} {s t : State} (hr : s.ready = false)
    (hroom : s.fillIndex.toNat < 66) (hfill : s.fillIndex.toNat + (pulsesFrom s samples).length = 66)
    (hgap : GapFree s samples) (hin : s.inputs = pollCycles samples ++ rest) (hx : run samples.length s = .next t) :
    FilledFrom s t (pulsesFrom s samples) := by
  induction samples generalizing s with
  | nil =>
    have hfull : s.fillIndex.toNat = 66 := hfill
    omega
  | cons sample samples ih =>
    obtain ⟨pin, now⟩ := sample
    obtain ⟨u, hu, hinputs, hrest, hcases⟩ := step_of_gapFree hr hroom hgap hin
    rw [List.length_cons, run_succ _ hu] at hx
    obtain ⟨hru, hf, he, hpulses⟩ | ⟨hf, hlatch, he, hpulses⟩ := hcases <;> rw [hpulses] at hfill ⊢
    · exact (ih hru (by rwa [hf]) (by rwa [hf]) hrest hinputs hx).of_unchanged hf he
    · rw [List.length_cons] at hfill
      refine FilledFrom.of_append ?_ hf he
      by_cases hlast : s.fillIndex.toNat = 65
      · have hnone : pulsesFrom u samples = [] := List.eq_nil_of_length_eq_zero (by omega)
        have hru : u.ready = true := hlatch.mpr hlast
        have hkeep : ∀ c ∈ u.inputs.take samples.length, KeepsReady c := by
          intro c hc
          rw [hinputs, List.take_left' (pollCycles_length samples)] at hc
          exact keepsReady_pollCycles hc
        rw [hnone]
        exact .of_sameCapture (sameCapture_run hru hkeep hx) hru (by omega)
      · have hru : u.ready = false := by simpa [hlast] using hlatch
        exact ih hru (by omega) (by omega) hrest hinputs hx

/-- Settles O48: under the invariant a state that is not Ready has room, and the run of the capture fills it. -/
theorem validPulsesFillTheBufferAndLatchReady : Obligations.ValidPulsesFillTheBufferAndLatchReady := by
  intro s samples rest hinv hr hfill hgap hin
  have hle : s.fillIndex.toNat ≤ 66 := hinv.fill_le
  have hne : s.fillIndex.toNat ≠ 66 := fun hf => by simp [hinv.ready_iff.mpr hf] at hr
  obtain ⟨t, ht, hrest⟩ := noRunEverStops samples.length s
  have hdrop : t.inputs = rest := by rw [hrest, hin, List.drop_left' (pollCycles_length samples)]
  obtain ⟨hready, hfull, holder, hnewer⟩ := filledFrom_run hr (by omega) hfill hgap hin ht
  exact ⟨t, ht, hready, hfull, hdrop, holder, hnewer⟩

end Sys2Proof.Proofs.PollFamily
end

section
/-! The family of 42_query.md: the comparator of one pair, the bits of the decoder's walk at every configuration, and what
they make of the result of DECODE. -/

namespace Sys2Proof.Proofs.QueryFamily

open Sys2Proof Sys2Proof.Machine Sys2Proof.Proofs.MemoryFamily

/-! ## The comparator -/

theorem pairBit_cfg_iff (ref cur : Nat) : pairBit cfg ref cur = true ↔ 3 * ref < 2 * cur := decide_eq_true_iff

/-- Halving both products gives the comparison of the rational numbers (42_query.md R77, R81). -/
theorem three_mul_lt_two_mul_iff (ref cur : Nat) : 3 * ref < 2 * cur ↔ (cur : ℚ) > 3 / 2 * (ref : ℚ) := by
  have hcast : 3 * ref < 2 * cur ↔ (3 * ref : ℚ) < 2 * cur := by exact_mod_cast Iff.rfl
  rw [hcast]
  constructor <;> intro h <;> linarith

/-- Settles O36. -/
theorem integerComparatorIsExact : Obligations.IntegerComparatorIsExact := by
  intro ref cur
  exact ⟨(pairBit_cfg_iff ref cur).trans (three_mul_lt_two_mul_iff ref cur), fun hr hc => by omega⟩

/-! ## The bits of the walk -/

/-- The new bit enters at position 0, and every older bit moves up by one, or out at `CW` (42_query.md R79). -/
theorem testBit_shiftIn (c : Config) (acc : Nat) (bit : Bool) (j : Nat) :
    (shiftIn c acc bit).testBit j = if j = 0 then bit else decide (j < c.cw) && acc.testBit (j - 1) := by
  rw [shiftIn, Nat.testBit_or, Nat.testBit_mod_two_pow, Nat.testBit_shiftLeft, Nat.testBit_bool_toNat]
  by_cases hj : j = 0
  · simp [hj]
  · simp [hj, Nat.one_le_iff_ne_zero]

/-- After `n` bits, bit `j` of the accumulator is the one that came `j` places before the last. -/
theorem testBit_foldl_shiftIn {c : Config} (hcw : 1 ≤ c.cw) (bit : Nat → Bool) (n j : Nat) :
    ((List.range n).foldl (fun acc k => shiftIn c acc (bit k)) 0).testBit j =
      (decide (j < n ∧ j < c.cw) && bit (n - 1 - j)) := by
  induction n generalizing j with
  | zero => simp
  | succ n ih =>
    rw [List.range_succ, List.foldl_append, List.foldl_cons, List.foldl_nil, testBit_shiftIn, ih]
    by_cases hj : j = 0
    · simp [hj, Nat.zero_lt_of_lt hcw]
    · have hback : n - 1 - (j - 1) = n + 1 - 1 - j := by omega
      have hpos : (j < c.cw ∧ j - 1 < n ∧ j - 1 < c.cw) ↔ (j < n + 1 ∧ j < c.cw) := by omega
      rw [if_neg hj, hback, ← Bool.and_assoc, ← Bool.decide_and, decide_eq_decide.mpr hpos]

/-- The bit of the `k`-th pair the decoder visits (42_query.md R76, R77). -/
def visitedBit (c : Config) (mag : Nat → Nat) (k : Nat) : Bool :=
  pairBit c (mag (c.decodeStart + k * c.decodeStride - 1)) (mag (c.decodeStart + k * c.decodeStride))

/-- The last pair stands in bit 0; only the `NBITS` bits below `CW` are there (42_query.md R78, R79). -/
theorem testBit_decodeWalk {c : Config} (hcw : 1 ≤ c.cw) (mag : Nat → Nat) (j : Nat) :
    (decodeWalk c mag).testBit j = (decide (j < nbits c ∧ j < c.cw) && visitedBit c mag (nbits c - 1 - j)) := by
  rw [decodeWalk, decodeIndices, List.foldl_map]
  exact testBit_foldl_shiftIn hcw (visitedBit c mag) (nbits c) j

/-- Settles O38: the two walks have the same bits below `CW`, and no bit from `NBITS` up. -/
theorem decodeKeepsTheLowBits : Obligations.DecodeKeepsTheLowBits := by
  rintro c mag ⟨-, -, ⟨-, -, hcw⟩, -⟩
  constructor
  · refine Nat.eq_of_testBit_eq fun j => ?_
    have hwide : 1 ≤ c.cw + nbits c := by omega
    rw [Nat.testBit_mod_two_pow, testBit_decodeWalk hcw, testBit_decodeWalk (c := { c with cw := c.cw + nbits c }) hwide,
      ← Bool.and_assoc, ← Bool.decide_and]
    have hpos : (j < nbits c ∧ j < c.cw) ↔ (j < c.cw ∧ j < nbits c ∧ j < c.cw + nbits c) := by omega
    rw [decide_eq_decide.mpr hpos]
    rfl
  · refine Nat.lt_pow_two_of_testBit _ fun j hj => ?_
    simp [testBit_decodeWalk hcw, Nat.not_lt.mpr hj]

/-! ## The result of DECODE -/

theorem decoded_of_not_ready (c : Config) {s : State} (hr : s.ready = false) : s.decoded c = 0 := by
  simp [State.decoded, hr]

theorem decoded_of_ready (c : Config) {s : State} (hr : s.ready = true) : s.decoded c = decodeWalk c s.magnitudeAt :=
  if_pos hr

/-- In Ready, bit `31 - k` of the result is the strict comparison of pair `k`, in integers (42_query.md R77, R78, R81). -/
theorem getLsbD_decoded_iff {s : State} (hr : s.ready = true) {k : Nat} (hk : k < 32) :
    (BitVec.ofNat 32 (s.decoded cfg)).getLsbD (31 - k) = true ↔
      3 * magnitude (s.entryAt (2 + 2 * k)) < 2 * magnitude (s.entryAt (3 + 2 * k)) := by
  have hbit : (BitVec.ofNat 32 (s.decoded cfg)).getLsbD (31 - k) = visitedBit cfg s.magnitudeAt k := by
    have hlt : 31 - k < 32 := by omega
    have hback : 32 - 1 - (31 - k) = k := by omega
    rw [BitVec.getLsbD_ofNat, decoded_of_ready cfg hr, testBit_decodeWalk (by decide), nbits_cfg, hback]
    simp [hlt]
  have hcur : 3 + k * 2 = 3 + 2 * k := by omega
  have href : 3 + k * 2 - 1 = 2 + 2 * k := by omega
  rw [hbit, visitedBit, pairBit_cfg_iff, href, hcur]
  rfl

/-- Settles O35. -/
theorem decodeBitsAreTheStrictComparisons : Obligations.DecodeBitsAreTheStrictComparisons := by
  intro s hr
  refine ⟨_, exec_decode s, rfl, fun k hk => ?_⟩
  rw [drive_result, getLsbD_decoded_iff hr hk, three_mul_lt_two_mul_iff]

/-- Settles O41: the paired magnitude is at most 9999, and `3 * 6666 = 2 * 9999`. -/
theorem oneBitNeedsReferenceAtMost6665 : Obligations.OneBitNeedsReferenceAtMost6665 := by
  intro s t hinv hr hx k hk hone
  obtain rfl : s.drive (BitVec.ofNat 32 (s.decoded cfg)) = t := by simpa using hx
  obtain ⟨v, hv⟩ := exists_read_of_ready hinv hr (i := 3 + 2 * k) (by omega)
  obtain ⟨-, hcur⟩ := magnitude_of_read hinv hv
  have hlong := (getLsbD_decoded_iff hr hk).mp hone
  rw [entryAt_of_read _ _ _ hv] at hlong
  omega

/-- The result is any word that agrees with the comparisons in its 32 bits. -/
theorem ofNat_decoded_eq {s : State} (hr : s.ready = true) {r : Code}
    (h : ∀ k, k < 32 → (r.getLsbD (31 - k) = true ↔
      3 * magnitude (s.entryAt (2 + 2 * k)) < 2 * magnitude (s.entryAt (3 + 2 * k)))) :
    BitVec.ofNat 32 (s.decoded cfg) = r := by
  refine BitVec.eq_of_getLsbD_eq fun i hi => ?_
  have hk : 31 - i < 32 := by omega
  have hback : 31 - (31 - i) = i := by omega
  have hsame := (getLsbD_decoded_iff hr hk).trans (h (31 - i) hk).symm
  rw [hback] at hsame
  exact Bool.eq_iff_iff.mpr hsame

/-- 42_query.md R77, R78: every pair above 1.5. -/
theorem decode_of_all_long {s : State} (hr : s.ready = true)
    (h : ∀ k, k < 32 → 3 * magnitude (s.entryAt (2 + 2 * k)) < 2 * magnitude (s.entryAt (3 + 2 * k))) :
    exec .decode s = .next { s with result := 0xFFFFFFFF#32 } := by
  have hones : 0xFFFFFFFF#32 = BitVec.allOnes 32 := by decide
  rw [exec_decode, ofNat_decoded_eq hr (r := 0xFFFFFFFF#32) fun k hk => ?_]
  · rfl
  · have hlt : 31 - k < 32 := by omega
    simp only [hones, BitVec.getLsbD_allOnes, hlt, h k hk, decide_true]

/-- 42_query.md R77, R78: every pair at most 1.5, the boundary itself included. -/
theorem decode_of_all_short {s : State} (hr : s.ready = true)
    (h : ∀ k, k < 32 → 2 * magnitude (s.entryAt (3 + 2 * k)) ≤ 3 * magnitude (s.entryAt (2 + 2 * k))) :
    exec .decode s = .next { s with result := 0#32 } := by
  rw [exec_decode, ofNat_decoded_eq hr (r := 0#32) fun k hk => ?_]
  · rfl
  · simp only [BitVec.getLsbD_zero, Bool.false_eq_true, Nat.not_lt.mpr (h k hk)]

/-- Settles O42. -/
theorem allLongDecodesToOnesAllShortToZero : Obligations.AllLongDecodesToOnesAllShortToZero :=
  fun _ hr => ⟨decode_of_all_long hr, decode_of_all_short hr⟩

/-- A full, Ready block in which every pulse lasted 500 microseconds: no pair is above 1.5 (95_test_vectors.md E5). -/
def shortFrame : State :=
  { State.reset with
    idle := false, fillIndex := 66#7, ready := true, buffer := (List.range 66).map fun i => (i, 500#16) }

theorem magnitude_of_mem_shortFrame {p : Nat × Entry} (hp : p ∈ shortFrame.buffer) : magnitude p.2 = 500 := by
  obtain ⟨i, -, rfl⟩ := List.mem_map.mp hp
  rfl

theorem shortFrame_inv : shortFrame.Inv where
  fill_le := by decide
  idle_iff := by decide
  ready_iff := by decide
  levels_eq := rfl
  buffer_wf := (wf_iff _).mpr ⟨List.pairwise_map.mpr List.pairwise_lt_range, by simp [shortFrame]⟩
  entries_valid p hp := by simp [validMagnitude, magnitude_of_mem_shortFrame hp]
  filled := by decide

theorem magnitude_entryAt_shortFrame {i : Nat} (hi : i < 66) : magnitude (shortFrame.entryAt i) = 500 := by
  obtain ⟨v, hv⟩ := exists_read_of_ready shortFrame_inv rfl hi
  rw [entryAt_of_read _ _ _ hv]
  exact magnitude_of_mem_shortFrame (read_mem hv)

/-- Settles O34: not Ready, the result is the sentinel; the Ready state that also gives 0 is `shortFrame`. -/
theorem decodeReturnsSentinelWhenNotReady : Obligations.DecodeReturnsSentinelWhenNotReady := by
  constructor
  · exact fun s m n hr => ⟨_, exec_decode _, congrArg (BitVec.ofNat 32) (decoded_of_not_ready cfg hr), rfl⟩
  · refine ⟨shortFrame, _, shortFrame_inv, rfl, decode_of_all_short rfl fun k hk => ?_, rfl⟩
    rw [magnitude_entryAt_shortFrame (by omega), magnitude_entryAt_shortFrame (by omega)]
    decide

end Sys2Proof.Proofs.QueryFamily
end

section
/-! The family of 43_rearm.md: RESET from every state, the cycle in which nothing is presented, and NOP beats inserted
into a run. -/

namespace Sys2Proof.Proofs.RearmFamily

open Sys2Proof Sys2Proof.Machine Sys2Proof.Proofs.StateFamily Sys2Proof.Proofs.EncodingFamily
  Sys2Proof.Proofs.PollFamily Sys2Proof.Proofs.QueryFamily

/-! ## RESET, and the undriven cycle -/

/-- Settles O45: RESET writes the flags of the phase Idle, so a DECODE after it drives the sentinel. -/
theorem resetRearmsFromEveryState : Obligations.ResetRearmsFromEveryState := by
  intro s
  refine ⟨_, rfl, exec_reset s, ⟨rfl, rfl, rfl⟩, exec_reset _, ?_⟩
  rw [exec_decode, decoded_of_not_ready cfg rfl]
  rfl

theorem takeCycle_of_inputs_nil {s : State} (h : s.inputs = []) : s.takeCycle = s := by
  rw [State.takeCycle, h, List.tail_nil, ← h]

/-- Settles O8: the ports of an undriven cycle select NOP, and no coming cycle is taken. -/
theorem undrivenCycleIsNop : Obligations.UndrivenCycleIsNop := by
  intro s h
  have hcycle : s.currentCycle = undrivenCycle := by rw [State.currentCycle, h, List.headD_nil]
  calc step s
    _ = exec (decodeBeat s.currentCycle.op s.currentCycle.pinLevel s.currentCycle.now) s.takeCycle :=
      step_of_beat (by rw [hcycle]; rfl)
    _ = exec .nop s := by rw [hcycle, takeCycle_of_inputs_nil h]; rfl

/-! ## What a cycle reads

A cycle reads neither the port `result` nor the cycles after it, so two states that differ there only have the same next
state but for the coming cycles. -/

/-- The state with another value on the port `result` and other cycles to come. -/
def withPorts (s : State) (r : Code) (cs : List Cycle) : State := { s with result := r, inputs := cs }

section withPorts
variable (c : Config) (pin : Level) (now : Time) (dt : Nat) (s : State) (r : Code) (cs : List Cycle)

@[simp] theorem withPorts_timeLastEdge : (withPorts s r cs).timeLastEdge = s.timeLastEdge := rfl
@[simp] theorem withPorts_idle : (withPorts s r cs).idle = s.idle := rfl

theorem passLevel_withPorts : (withPorts s r cs).passLevel = withPorts s.passLevel r cs := rfl

theorem setTimeOrigin_withPorts : (withPorts s r cs).setTimeOrigin now = withPorts (s.setTimeOrigin now) r cs := rfl

theorem appendPulse_withPorts : (withPorts s r cs).appendPulse c dt = withPorts (s.appendPulse c dt) r cs := by
  obtain ⟨hroom, ha⟩ | ⟨hfull, ha⟩ := appendPulse_cases c s dt <;> rw [ha]
  · exact if_pos hroom
  · exact if_neg (Nat.not_lt.mpr hfull)

theorem applyClass_withPorts (k : EdgeClass) :
    (withPorts s r cs).applyClass c dt k = withPorts (s.applyClass c dt k) r cs := by
  cases k with
  | validPulse => exact appendPulse_withPorts c dt (s.setIdle false) r cs
  | gap | noise | idleGap => rfl

theorem latchReady_withPorts : (withPorts s r cs).latchReady c = withPorts (s.latchReady c) r cs := by
  by_cases hf : s.fillIndex.toNat = c.capacity
  · rw [latchReady_of_eq c s hf]
    exact if_pos hf
  · rw [latchReady_of_ne c s hf]
    exact if_neg hf

theorem pollEdge_withPorts : pollEdge c now (withPorts s r cs) = withPorts (pollEdge c now s) r cs := by
  simp only [pollEdge, withPorts_timeLastEdge, withPorts_idle, applyClass_withPorts, setTimeOrigin_withPorts,
    passLevel_withPorts, latchReady_withPorts]

theorem pollNext_withPorts : pollNext c pin now (withPorts s r cs) = withPorts (pollNext c pin now s) r cs := by
  obtain ⟨hr, hu⟩ | ⟨hr, hp, hu⟩ | ⟨hr, hp, hu⟩ := pollNext_cases c pin now s <;> rw [hu]
  · exact pollNext_of_ready hr
  · exact pollNext_of_noEdge hr hp
  · rw [← pollEdge_withPorts]
    exact pollNext_of_edge (s := withPorts s r cs) hr hp

end withPorts

/-- Every command drives the port `result` anew and leaves the coming cycles to the host. -/
theorem exec_withPorts {i : Instr} {s t : State} (hx : exec i s = .next t) (r : Code) (cs : List Cycle) :
    exec i (withPorts s r cs) = .next { t with inputs := cs } := by
  cases i with
  | poll pin now =>
    cases hx
    rw [exec_poll, pollNext_withPorts]
    rfl
  | nop | init | isReady | decode | reset | reserved110 | reserved111 => cases hx; rfl

/-- One next state serves every value of the port `result` and every sequence of cycles after this one. -/
theorem step_withPorts (s : State) (c : Cycle) :
    ∃ t : State, ∀ r cs, step (withPorts s r (c :: cs)) = .next { t with inputs := cs } := by
  cases hrst : c.rst
  case true => exact ⟨hardwareReset s, fun r cs => step_of_rst (s := withPorts s r (c :: cs)) hrst⟩
  case false =>
    obtain ⟨t, ht, -⟩ := exec_next_inputs (decodeBeat c.op c.pinLevel c.now) s
    exact ⟨t, fun r cs => (step_of_beat (s := withPorts s r (c :: cs)) hrst).trans (exec_withPorts ht r cs)⟩

/-! ## Runs with NOP beats inserted -/

/-- A beat of NOP takes its cycle and drives 0, whatever stands on the ports it ignores (43_rearm.md R86). -/
theorem step_nop {c : Cycle} (hc : Cycle.isBeat c 0b000#3) (s : State) (cs : List Cycle) :
    step { s with inputs := c :: cs } = .next (withPorts s 0#32 cs) := by
  obtain ⟨hrst, hop⟩ := hc
  have hdecode : decodeBeat c.op c.pinLevel c.now = .nop := by rw [hop]; rfl
  calc step { s with inputs := c :: cs }
    _ = exec (decodeBeat c.op c.pinLevel c.now) { s with inputs := cs } := stepRunsThePresentedCommand.1 _ c cs rfl hrst
    _ = .next (withPorts s 0#32 cs) := by rw [hdecode]; rfl

/-- A run of at least one cycle that the host presents does not show what the port `result` carried before it. -/
theorem run_independent_of_result (s : State) (r r' : Code) (c : Cycle) (cs : List Cycle) (n : Nat) :
    run (n + 1) (withPorts s r (c :: cs)) = run (n + 1) (withPorts s r' (c :: cs)) := by
  obtain ⟨t, ht⟩ := step_withPorts s c
  rw [run_succ n (ht r cs), run_succ n (ht r' cs)]

/-- NOP beats before a run of at least one presented cycle change nothing, by induction on the beats: each leaves only the
port `result` changed. -/
theorem run_nops_append {nops : List Cycle} (hnops : ∀ c ∈ nops, Cycle.isBeat c 0b000#3) (c : Cycle) (cs : List Cycle)
    (n : Nat) (s : State) :
    run (nops.length + (n + 1)) { s with inputs := nops ++ c :: cs } = run (n + 1) { s with inputs := c :: cs } := by
  induction nops generalizing s with
  | nil => rw [List.length_nil, Nat.zero_add, List.nil_append]
  | cons d nops ih =>
    obtain ⟨hd, hrest⟩ := List.forall_mem_cons.mp hnops
    calc run ((d :: nops).length + (n + 1)) { s with inputs := d :: (nops ++ c :: cs) }
      _ = run (nops.length + (n + 1)) (withPorts s 0#32 (nops ++ c :: cs)) := by
        rw [List.length_cons, Nat.succ_add, run_succ _ (step_nop hd s _)]
      _ = run (n + 1) (withPorts s 0#32 (c :: cs)) := ih hrest (withPorts s 0#32 [])
      _ = run (n + 1) { s with inputs := c :: cs } := run_independent_of_result s 0#32 s.result c cs n

/-- Two continuations that end alike from every state end alike after the same first cycles, by induction on these. -/
theorem run_append_congr {m n : Nat} {cs cs' : List Cycle}
    (h : ∀ s : State, run m { s with inputs := cs } = run n { s with inputs := cs' }) (pre : List Cycle) (s : State) :
    run (pre.length + m) { s with inputs := pre ++ cs } = run (pre.length + n) { s with inputs := pre ++ cs' } := by
  induction pre generalizing s with
  | nil => simpa only [List.length_nil, Nat.zero_add, List.nil_append] using h s
  | cons c pre ih =>
    obtain ⟨t, ht⟩ := step_withPorts s c
    have hcycle (rest : List Cycle) : step { s with inputs := c :: rest } = .next { t with inputs := rest } :=
      ht s.result rest
    rw [List.length_cons, Nat.succ_add, Nat.succ_add, List.cons_append, List.cons_append, run_succ _ (hcycle _),
      run_succ _ (hcycle _), ih]

/-- Settles O47: the NOP beats change nothing at the head of the run that follows them, so nothing after `pre` either. -/
theorem insertedNopBeatsChangeNothing : Obligations.InsertedNopBeatsChangeNothing := by
  intro s pre nops post hnops hpost
  obtain ⟨c, cs, rfl⟩ := List.exists_cons_of_ne_nil hpost
  rw [List.append_assoc, Nat.add_assoc]
  exact run_append_congr (run_nops_append hnops c cs cs.length) pre s

end Sys2Proof.Proofs.RearmFamily
end

section
/-! The family of 70_reset_and_hazards.md: the spurious first edge after hardware reset. -/

namespace Sys2Proof.Proofs.ResetHazardsFamily

open Sys2Proof Sys2Proof.Machine Sys2Proof.Proofs.PollFamily

/-- With `time_last_edge = 0` after hardware reset, `dt` is the clock itself (70_reset_and_hazards.md R100). -/
theorem elapsed_reset (now : Time) : elapsed cfg now.toNat State.reset.timeLastEdge.toNat = now.toNat :=
  elapsed_of_le (Nat.zero_le _) now.isLt

/-- Settles O32: High is an edge against the Low of reset, so by the value of `now` the POLL is O28's valid pulse at
entry 0 or O27's ignored edge. -/
theorem firstEdgeAfterResetMeasuresNow : Obligations.FirstEdgeAfterResetMeasuresNow := by
  intro now
  have hr : State.reset.ready = false := rfl
  have hp : Level.high ≠ State.reset.levelPrevious := nofun
  obtain ⟨hmin, hmax⟩ | hignored :
      (400 < now.toNat ∧ now.toNat < 10000) ∨ (now.toNat ≤ 400 ∨ 10000 ≤ now.toNat) := by omega
  · obtain ⟨t, ht, hentry, -, hsucc, hidle, htime, -, hlevel, hlatch, -⟩ :=
      validPulseAppendsOneEntry .high now State.reset hr hp (by rwa [elapsed_reset]) (by rwa [elapsed_reset]) (by decide)
    have hstored : (t.entryAt 0).toInt = now.toNat := by rwa [elapsed_reset, if_pos rfl] at hentry
    have hready : t.ready = false := Bool.eq_false_iff.mpr fun h => absurd (hlatch.mp h) (by decide)
    exact ⟨t, ht, htime, hlevel, fun _ _ => ⟨hstored, BitVec.eq_of_toNat_eq hsucc, hidle, hready⟩, fun h => by omega⟩
  · have hdt : elapsed cfg now.toNat State.reset.timeLastEdge.toNat ≤ 400 ∨
        (10000 ≤ elapsed cfg now.toNat State.reset.timeLastEdge.toNat ∧ State.reset.idle = true) := by
      rw [elapsed_reset]
      exact hignored.imp_right fun h => ⟨h, rfl⟩
    exact ⟨_, ignoredEdgeMovesOnlyTimeAndLevels .high now State.reset hr hp hdt, rfl, rfl, fun _ _ => by omega,
      fun _ => ⟨rfl, rfl, rfl, rfl⟩⟩

end Sys2Proof.Proofs.ResetHazardsFamily
end
